-- ==== Sys2Proof/Word.lean ====
section
/-! DEFINITION. The widths of the machine's quantities (00_scope.md R8, R9: bit 0 is the least significant bit, every value
is unsigned). -/

namespace Sys2Proof

/-- A state identifier, `STATE_W` = 4 bits; 14 and 15 name no state (30_encoding.md R74). -/
abbrev StateId := BitVec 4

/-- A vehicle-lamp mask, 6 bits (30_encoding.md R71). -/
abbrev VMask := BitVec 6

/-- A pedestrian-lamp mask, a 4-bit positioned value (30_encoding.md R72). -/
abbrev PMask := BitVec 4

/-- An input sample, 3 bits, `ped :: NS :: EW` (30_encoding.md R70). -/
abbrev Sample := BitVec 3

/-- A count of quanta, `DUR_W` = 8 bits (00_scope.md R8). -/
abbrev Quanta := BitVec 8

end Sys2Proof
end

