-- ==== Sys2Proof/Machine/Flags.lean ====
section
/-! DEFINITION. The hardware has no flags and no condition codes; no operation sets or tests a status bit (10_state.md R30).
What stands here is its only condition and its only arithmetic (42_timing.md R133). -/

namespace Sys2Proof.Machine

/-- The end test of a wait: `CNT` = 0 (42_timing.md R132, R133). -/
def cntIsZero (cnt : BitVec 8) : Bool := cnt == 0

/-- `CNT - 1`, taken only when `CNT` is at least 1, so that it neither wraps nor borrows (42_timing.md R133). -/
def cntDown (cnt : BitVec 8) : BitVec 8 := cnt - 1

end Sys2Proof.Machine
end

