-- ==== Sys2Proof/Syntax.lean ====
section
/-! DEFINITION. What plays the part of instructions: one constructor per row of spec/opcode_table.json, and the table entry
that the row STATE carries as its operand (30_encoding.md R75, R78, R79). -/

namespace Sys2Proof

/-- The pedestrian mask of a table entry: the two implemented lamps, bit 1 and bit 3 of the positioned mask. Bits 0 and 2 are
zero in every table entry (30_encoding.md R72), and the record type has no such bits (93_implementation_defined.md U1). -/
structure PPattern where
  /-- bit 1 -/
  dontWalk : Bool
  /-- bit 3 -/
  walk : Bool
deriving DecidableEq, Repr, Inhabited

/-- One entry of the state table, the normative record form (30_encoding.md R75). The transition list is a list so that a
missing entry (60_exceptions.md R151) can be written down, and an identifier has all 4 bits so that a dangling one can. The
pedestrian mask is a `PPattern`: the record type has no bits 0 and 2 (93_implementation_defined.md U1, 40_state_table.md
R108). -/
structure Entry where
  /-- `.V`, the vehicle mask -/
  v : VMask
  /-- `.P`, the pedestrian mask -/
  p : PPattern
  /-- `.D`, the hold duration in quanta -/
  d : Quanta
  /-- `.T`, the next-state identifiers, one per input sample -/
  t : List StateId
deriving DecidableEq, Repr, Inhabited

/-- The values of the phase register `PH` (10_state.md R26, 30_encoding.md R78). -/
inductive Phase where
  | init | emitv | emitp | load | wait | sample | advance | refused
deriving DecidableEq, Repr

/-- The operations of the opcode table. -/
inductive Instr where
  /-- format PH, R112 -/
  | init
  /-- format PH, R114 -/
  | emitv
  /-- format PH, R115 -/
  | emitp
  /-- format PH, R131 -/
  | load
  /-- format PH, R132 -/
  | wait
  /-- format PH, R116 -/
  | sample
  /-- format PH, R117 -/
  | advance
  /-- format PH, R118 -/
  | refused
  /-- format PORT, `writeVehicleLights(m)`, R140 -/
  | wrv (m : VMask)
  /-- format PORT, `writePedestrianLights(m)`, R141 -/
  | wrp (m : PMask)
  /-- format PORT, `readInputs()`, R142 -/
  | rdin
  /-- format ENTRY, one iteration on the entry `e`, R111 -/
  | state (e : Entry)
deriving DecidableEq, Repr

/-- The format column of spec/opcode_table.json (30_encoding.md R79). -/
inductive Format where
  | ph | port | entry
deriving DecidableEq, Repr

/-- The format of an operation's row. -/
def Instr.format : Instr → Format
  | .init | .emitv | .emitp | .load | .wait | .sample | .advance | .refused => .ph
  | .wrv _ | .wrp _ | .rdin => .port
  | .state _ => .entry

end Sys2Proof
end

