-- ==== Sys2Proof/WellFormed.lean ====
section
/-! DEFINITION. Which operations can be written as code words. Only STATE carries an operand with a constraint: an entry is
well formed when it has eight transitions, each naming a state (30_encoding.md R76; the count is R75); its reserved pedestrian
bits are not there to be checked (R72), the decoder checks them in the word. A mask of WRV or WRP is any value of its width (43_ports.md R140, R141), and a duration of 0 is no format
error (R80 (d)). -/

namespace Sys2Proof

/-- Exactly 8 transitions (30_encoding.md R75). -/
def Entry.hasEight (e : Entry) : Bool := e.t.length == 8

/-- Every transition names a state, 0 to 13 (30_encoding.md R74, R76). -/
def Entry.targetsValid (e : Entry) : Bool := e.t.all fun n => n.toNat < 14

/-- A well-formed entry (30_encoding.md R76). -/
def Entry.wf (e : Entry) : Bool := e.hasEight && e.targetsValid

/-- A well-formed operation: it has a code word that stands for it. -/
def Instr.wf : Instr → Bool
  | .init | .emitv | .emitp | .load | .wait | .sample | .advance | .refused => true
  | .wrv _ | .wrp _ | .rdin => true
  | .state e => e.wf

end Sys2Proof
end

