-- ==== Sys2Proof/Decode.lean ====
section
/-! DEFINITION. Code words and what they stand for (30_encoding.md R75 to R81): the decoder, total on every word and
rejecting by name, and after it the encoder. -/

namespace Sys2Proof

/-- A word in the place its format belongs to. The same three bits mean a phase in `PH` and an operation on the port
selector lines (log entry 8), so the place is part of the word. A port word carries beside its selector the six data lines
a mask travels on (log entry 8). -/
inductive CodeWord where
  | ph (c : BitVec 3)
  | port (sel : BitVec 3) (data : BitVec 6)
  | entry (w : BitVec 50)
deriving DecidableEq, Repr

/-- Why a word stands for no operation. -/
inductive DecodeError where
  /-- a port selector other than `100`, `101`, `010` (30_encoding.md R80 (e)) -/
  | selectsNothing (sel : BitVec 3)
  /-- data lines that the selected operation's operand does not have (log entry 8) -/
  | strayData (sel : BitVec 3) (data : BitVec 6)
  /-- bit 6 or bit 8 of an entry word is 1 (30_encoding.md R76) -/
  | reservedBits (w : BitVec 50)
  /-- a next-state identifier of an entry word is 14 or 15 (30_encoding.md R76, R80 (a)) -/
  | danglingTarget (w : BitVec 50)
deriving DecidableEq, Repr

/-- The place of a word. -/
def CodeWord.format : CodeWord → Format
  | .ph _ => .ph
  | .port _ _ => .port
  | .entry _ => .entry

/-- `.T[i]` = `W[21+4i : 18+4i]` (30_encoding.md R76). -/
def Entry.targetField (w : BitVec 50) (i : Nat) : StateId := w.extractLsb' (18 + 4 * i) 4

/-- The positioned mask of a pattern: `w0x0`, walk on bit 3, don't-walk on bit 1, bits 2 and 0 zero (30_encoding.md R72, R76). -/
def PPattern.mask (p : PPattern) : PMask := BitVec.ofBool p.walk ++ 0#1 ++ BitVec.ofBool p.dontWalk ++ 0#1

/-- The implemented bits of a positioned mask (30_encoding.md R72). -/
def PPattern.ofMask (m : PMask) : PPattern where
  dontWalk := m.getLsbD 1
  walk := m.getLsbD 3

/-- `W[6]` = 0 and `W[8]` = 0 (30_encoding.md R76). -/
def Entry.reservedZero (w : BitVec 50) : Bool := !w.getLsbD 6 && !w.getLsbD 8

/-- The record a 50-bit word holds, unchecked (30_encoding.md R76). -/
def Entry.unpack (w : BitVec 50) : Entry where
  v := w.extractLsb' 0 6
  p := PPattern.ofMask (w.extractLsb' 6 4)
  d := w.extractLsb' 10 8
  t := [Entry.targetField w 0, Entry.targetField w 1, Entry.targetField w 2, Entry.targetField w 3,
    Entry.targetField w 4, Entry.targetField w 5, Entry.targetField w 6, Entry.targetField w 7]

/-- The phase a code names; all eight codes are used (30_encoding.md R78). -/
def Phase.ofCode (c : BitVec 3) : Phase :=
  match c.toNat with
  | 0 => .init
  | 1 => .emitv
  | 2 => .emitp
  | 3 => .load
  | 4 => .wait
  | 5 => .sample
  | 6 => .advance
  | _ => .refused

/-- The operation a phase performs (30_encoding.md R79). -/
def Phase.instr : Phase → Instr
  | .init => .init
  | .emitv => .emitv
  | .emitp => .emitp
  | .load => .load
  | .wait => .wait
  | .sample => .sample
  | .advance => .advance
  | .refused => .refused

/-- A port word (30_encoding.md R79, R80 (e)): the selector chooses, the data lines carry the mask. -/
def decodePort (sel : BitVec 3) (data : BitVec 6) : Except DecodeError Instr :=
  match sel.toNat with
  | 4 => .ok (.wrv data)
  | 5 => if data.extractLsb' 4 2 = 0 then .ok (.wrp (data.extractLsb' 0 4)) else .error (.strayData sel data)
  | 2 => if data = 0 then .ok .rdin else .error (.strayData sel data)
  | _ => .error (.selectsNothing sel)

/-- An entry word (30_encoding.md R76): well formed when `W[6]` = 0, `W[8]` = 0 and every `.T[i]` is at most 13. -/
def decodeEntry (w : BitVec 50) : Except DecodeError Instr :=
  if Entry.reservedZero w then
    if (Entry.unpack w).targetsValid then .ok (.state (Entry.unpack w)) else .error (.danglingTarget w)
  else .error (.reservedBits w)

/-- The decoder, total on every word. -/
def decode : CodeWord → Except DecodeError Instr
  | .ph c => .ok (Phase.ofCode c).instr
  | .port sel data => decodePort sel data
  | .entry w => decodeEntry w

/-- The code of a phase (30_encoding.md R78). -/
def Phase.code : Phase → BitVec 3
  | .init => 0b000
  | .emitv => 0b001
  | .emitp => 0b010
  | .load => 0b011
  | .wait => 0b100
  | .sample => 0b101
  | .advance => 0b110
  | .refused => 0b111

/-- The transition fields from the low bits up: the identifier at the head of the list is the lowest field
(30_encoding.md R76). An entry without exactly eight transitions has no word; the missing ones are left 0. -/
def Entry.packTargets : List StateId → Nat
  | [] => 0
  | n :: rest => n.toNat + 16 * Entry.packTargets rest

/-- The 50-bit word of a record (30_encoding.md R76): `.V` in bits 5:0, `.P` in 9:6, `.D` in 17:10, `.T` from 18 up. -/
def Entry.pack (e : Entry) : BitVec 50 :=
  BitVec.ofNat 50
    (e.v.toNat + 2 ^ 6 * e.p.mask.toNat + 2 ^ 10 * e.d.toNat + 2 ^ 18 * Entry.packTargets e.t)

/-- The encoder: the code word of a well-formed operation. -/
def encode : Instr → CodeWord
  | .init => .ph 0b000
  | .emitv => .ph 0b001
  | .emitp => .ph 0b010
  | .load => .ph 0b011
  | .wait => .ph 0b100
  | .sample => .ph 0b101
  | .advance => .ph 0b110
  | .refused => .ph 0b111
  | .wrv m => .port 0b100 m
  | .wrp m => .port 0b101 (m.zeroExtend 6)
  | .rdin => .port 0b010 0
  | .state e => .entry e.pack

/-- The word that `nbits` bits numbered from 0 hold, by the opcode table's numbering. A row of at most one byte is a phase
code (3 bits, the rest 0): the port rows have the same three bits on other lines, so as a bare number they read as the
phase (log entry 8). A longer row is the 50-bit entry word, the bits above it 0. -/
def tableWord (nbits w : Nat) : Option CodeWord :=
  if nbits ≤ 8 then
    if w < 8 then some (.ph (BitVec.ofNat 3 w)) else none
  else
    if w < 2 ^ 50 then some (.entry (BitVec.ofNat 50 w)) else none

/-- The instruction the decoder reads from a row's bits. -/
def decodeTableWord (nbits w : Nat) : Option Instr :=
  match tableWord nbits w with
  | none => none
  | some c =>
    match decode c with
    | .ok i => some i
    | .error _ => none

end Sys2Proof
end

