-- ==== Sys2Proof/Config.lean ====
section
/-! DEFINITION. What is fixed for a machine: the spec's parameters (00_scope.md R8) and the values it leaves free. An opaque
constant has no body, so nothing can be proved of its value. -/

namespace Sys2Proof

/-- The state table: exactly 14 slots (40_state_table.md R93; D29: another number cannot be written down), slot `k` the entry
of state `k`. -/
structure Table where
  e0 : Entry
  e1 : Entry
  e2 : Entry
  e3 : Entry
  e4 : Entry
  e5 : Entry
  e6 : Entry
  e7 : Entry
  e8 : Entry
  e9 : Entry
  e10 : Entry
  e11 : Entry
  e12 : Entry
  e13 : Entry
deriving DecidableEq, Repr, Inhabited

namespace Config

/-- `NSTATES` (R8). -/
def nStates : Nat := 14

/-- `NTRANS` = `2^IN_W` (R8). -/
def nTrans : Nat := 8

/-- `START`, the start state (R8, R95; the number is the spec's D4). -/
def start : StateId := 0

/-- `QUANTUM` in milliseconds (R8, 70_reset_and_hazards.md R182). -/
def quantumMs : Nat := 10

/-- `D_SHORT` (R8, 40_state_table.md R103), a tunable constant. -/
def dShort : Quanta := 50

/-- `D_LONG` (R8, 40_state_table.md R103), a tunable constant. -/
def dLong : Quanta := 70

/-- `TABLE`, the parameter the spec leaves OPEN (R8, D2). DESIGN CHOICE (log entry 5): safe, no body. -/
opaque table : Table

/-- An input sample that no script gives: a free draw (10_state.md R29, D30). The argument is `State.free`. -/
opaque freeSample : Nat → Sample

/-- `VOUT` after a reset (10_state.md R33): a free value. -/
opaque freeVout : Nat → VMask

/-- The implemented bits of `POUT` after a reset (10_state.md R33): a free value. -/
opaque freePout : Nat → PMask

/-- `CNT` after a reset (10_state.md R33) and after SAMPLE (93_implementation_defined.md U11): a free value. -/
opaque freeCnt : Nat → Quanta

/-- `SMP` after a reset (10_state.md R33) and after ADVANCE (10_state.md R24): a free value. -/
opaque freeSmp : Nat → Sample

/-- `PORT_ADDR`: OPEN, named and unused (D32, U19); no rule reads it. -/
opaque portAddr : Nat → Nat

/-- `CLOCK_HZ`: OPEN, named and unused (D32, U19); no rule reads it. -/
opaque clockHz : Nat

/-- `PART`: OPEN, named and unused (D32, U19); no rule reads it. -/
opaque part : String

end Config

end Sys2Proof
end

