-- ==== Sys2Proof/Machine/Operands.lean ====
section
/-! DEFINITION. Operand assembly and the meaning of the bits (30_encoding.md R70 to R73, R77; 20_memory.md R53). Nothing here
computes: masks, identifiers and samples are moved. -/

namespace Sys2Proof.Machine

/-- The sensors, and the bit of a sample each one drives (30_encoding.md R70). -/
inductive Sensor where
  | ewCar | nsCar | pedestrian
deriving DecidableEq, Repr

/-- The bit of a sensor in a sample (30_encoding.md R70). -/
def sensorBit : Sensor → Nat
  | .ewCar => 0
  | .nsCar => 1
  | .pedestrian => 2

/-- `ped :: NS :: EW`, the levels of the three sensors as one value (30_encoding.md R70, R77 (a)). -/
def sampleOf (ped ns ew : Bool) : Sample := BitVec.ofBool ped ++ BitVec.ofBool ns ++ BitVec.ofBool ew

/-- Does a sensor report presence in a sample? (30_encoding.md R70) -/
def senses (i : Sample) (k : Sensor) : Bool := i.getLsbD (sensorBit k)

/-- The vehicle lamps. -/
inductive VLamp where
  | nsGreen | nsYellow | nsRed | ewGreen | ewYellow | ewRed
deriving DecidableEq, Repr

/-- The bit of a vehicle lamp (30_encoding.md R71). -/
def vLampBit : VLamp → Nat
  | .nsGreen => 0
  | .nsYellow => 1
  | .nsRed => 2
  | .ewGreen => 3
  | .ewYellow => 4
  | .ewRed => 5

/-- Is a vehicle lamp lit by a mask? A bit at 1 lights it (30_encoding.md R71). -/
def vLit (m : VMask) (k : VLamp) : Bool := m.getLsbD (vLampBit k)

/-- The pedestrian lamps. -/
inductive PLamp where
  | dontWalk | walk
deriving DecidableEq, Repr

/-- The bit of a pedestrian lamp (30_encoding.md R72). -/
def pLampBit : PLamp → Nat
  | .dontWalk => 1
  | .walk => 3

/-- Is a pedestrian lamp lit by a mask? (30_encoding.md R72) -/
def pLit (m : PMask) (k : PLamp) : Bool := m.getLsbD (pLampBit k)

/-- `V_ALLRED` (30_encoding.md R73). -/
def vAllRed : VMask := 0b100100
/-- `V_NS_GREEN` (30_encoding.md R73). -/
def vNsGreen : VMask := 0b100001
/-- `V_NS_YELLOW` (30_encoding.md R73). -/
def vNsYellow : VMask := 0b100010
/-- `V_EW_GREEN` (30_encoding.md R73). -/
def vEwGreen : VMask := 0b001100
/-- `V_EW_YELLOW` (30_encoding.md R73). -/
def vEwYellow : VMask := 0b010100
/-- `P_DONT` (30_encoding.md R73). -/
def pDont : PMask := 0b0010
/-- `P_WALK` (30_encoding.md R73). -/
def pWalk : PMask := 0b1000
/-- `P_OFF` (30_encoding.md R73). -/
def pOff : PMask := 0b0000

/-- What `POUT` holds after a write of `m`: flip-flops at bits 1 and 3 only, bits 0 and 2 read 0 and ignore writes
(10_state.md R23, 43_ports.md R141). -/
def poutOf (m : PMask) : PMask := m &&& 0b1010

/-- The count a duration stands for: unsigned, unscaled, zero-extended to the counter (30_encoding.md R77 (b)). -/
def countOf (d : Quanta) : BitVec 8 := d.zeroExtend 8

/-- The 8-to-1 multiplexer whose select lines are the three bits of the sample (40_state_table.md R92). -/
def mux8 {α : Type} (i : Sample) (a b c d e f g h : α) : α :=
  if i.getLsbD 2 then
    if i.getLsbD 1 then
      if i.getLsbD 0 then h else g
    else
      if i.getLsbD 0 then f else e
  else
    if i.getLsbD 1 then
      if i.getLsbD 0 then d else c
    else
      if i.getLsbD 0 then b else a

/-- The three ports and no others (20_memory.md R53). -/
inductive Port where
  | vout | pout | inp
deriving DecidableEq, Repr

/-- The number of a port (20_memory.md R53, D15). -/
def portNumber : Port → BitVec 2
  | .vout => 0
  | .pout => 1
  | .inp => 2

/-- The port selector `rw :: port`, `rw` = 1 for a write (30_encoding.md R79). -/
def portSelector (write : Bool) (p : Port) : BitVec 3 := BitVec.ofBool write ++ portNumber p

end Sys2Proof.Machine
end

