-- ==== Sys2Proof/Machine/Table.lean ====
section
/-! DEFINITION. The table memory and its three operations: GET (40_state_table.md R91), NEXT (R92), VALIDATE (R106). -/

namespace Sys2Proof.Machine

/-- `TableRead(s)`, GET: the entry of state `s`; there is none for 14 and 15, and no default (20_memory.md R51,
40_state_table.md R91). -/
def tableRead (tbl : Table) (s : StateId) : Option Entry :=
  match s.toNat with
  | 0 => some tbl.e0
  | 1 => some tbl.e1
  | 2 => some tbl.e2
  | 3 => some tbl.e3
  | 4 => some tbl.e4
  | 5 => some tbl.e5
  | 6 => some tbl.e6
  | 7 => some tbl.e7
  | 8 => some tbl.e8
  | 9 => some tbl.e9
  | 10 => some tbl.e10
  | 11 => some tbl.e11
  | 12 => some tbl.e12
  | 13 => some tbl.e13
  | _ => none

/-- A table with the entry of state `s` replaced: how a table is put together before the run (70_reset_and_hazards.md R172
(c)). No step does this (20_memory.md R50). Nothing happens for 14 and 15, which have no slot. -/
def tablePut (tbl : Table) (s : StateId) (e : Entry) : Table :=
  match s.toNat with
  | 0 => { tbl with e0 := e }
  | 1 => { tbl with e1 := e }
  | 2 => { tbl with e2 := e }
  | 3 => { tbl with e3 := e }
  | 4 => { tbl with e4 := e }
  | 5 => { tbl with e5 := e }
  | 6 => { tbl with e6 := e }
  | 7 => { tbl with e7 := e }
  | 8 => { tbl with e8 := e }
  | 9 => { tbl with e9 := e }
  | 10 => { tbl with e10 := e }
  | 11 => { tbl with e11 := e }
  | 12 => { tbl with e12 := e }
  | 13 => { tbl with e13 := e }
  | _ => tbl

/-- The entries in ascending identifier. -/
def tableEntries (tbl : Table) : List Entry :=
  [tbl.e0, tbl.e1, tbl.e2, tbl.e3, tbl.e4, tbl.e5, tbl.e6, tbl.e7, tbl.e8, tbl.e9, tbl.e10, tbl.e11, tbl.e12, tbl.e13]

/-- NEXT on an entry: the eight identifiers presented to the multiplexer and the one the sample selects
(40_state_table.md R92). An entry without exactly eight transitions has no decoder; no run reaches one (R106). -/
def entryNext (e : Entry) (i : Sample) : Option StateId :=
  match e.t with
  | [t0, t1, t2, t3, t4, t5, t6, t7] => some (mux8 i t0 t1 t2 t3 t4 t5 t6 t7)
  | _ => none

/-- `NEXT(s, i) = TABLE[s].T[i]` (40_state_table.md R92). -/
def tableNext (tbl : Table) (s : StateId) (i : Sample) : Option StateId :=
  match tableRead tbl s with
  | some e => entryNext e i
  | none => none

/-- The flat transition address `s :: i`, 7 bits (20_memory.md R52). -/
def flatAddress (s : StateId) (i : Sample) : BitVec 7 := s ++ i

/-- The transition sub-space read by its flat address; addresses with a state above 13 hold nothing (20_memory.md R52). -/
def flatRead (tbl : Table) (a : BitVec 7) : Option StateId :=
  tableNext tbl (a.extractLsb' 3 4) (a.extractLsb' 0 3)

/-- The two causes of `ConfigDefect` (60_exceptions.md R151). -/
inductive DefectCode where
  | danglingTarget | missingEntry
deriving DecidableEq, Repr

/-- The code numbers (60_exceptions.md R151). -/
def defectNumber : DefectCode → Nat
  | .danglingTarget => 1
  | .missingEntry => 2

/-- What `ConfigDefect(code, s, i)` records (60_exceptions.md R151): for a dangling target `s` and the input index, for a
missing entry `s` and the number of entries the list has. -/
structure Defect where
  code : DefectCode
  s : Nat
  i : Nat
deriving DecidableEq, Repr

/-- The scan of one transition list in ascending input index, `i` the index of its head (40_state_table.md R106). -/
def scanTargets (s : Nat) : Nat → List StateId → Option Defect
  | _, [] => none
  | i, n :: rest => if 13 < n.toNat then some ⟨.danglingTarget, s, i⟩ else scanTargets s (i + 1) rest

/-- The check of one entry: the count first, then the targets (40_state_table.md R106). -/
def checkEntry (s : Nat) (e : Entry) : Option Defect :=
  if e.t.length = 8 then scanTargets s 0 e.t else some ⟨.missingEntry, s, e.t.length⟩

/-- The scan of the entries in ascending identifier, `s` the identifier of the head (40_state_table.md R106). -/
def scanEntries : Nat → List Entry → Option Defect
  | _, [] => none
  | s, e :: rest =>
    match checkEntry s e with
    | some d => some d
    | none => scanEntries (s + 1) rest

/-- VALIDATE: `none` is `Ok` (40_state_table.md R106). It looks at the transition lists and at nothing else. -/
def validate (tbl : Table) : Option Defect := scanEntries 0 (tableEntries tbl)

end Sys2Proof.Machine
end

