-- ==== Sys2Proof/Machine/State.lean ====
section
/-! DEFINITION. The machine's state (10_state.md), plain data, and what ends a step. -/

namespace Sys2Proof.Machine

/-- Why the machine stops. -/
inductive Fault where
  /-- Raised by the operation REFUSED: "the machine has no step in this phase and stays in it until the next reset"
  (41_fsm_engine.md R118). Safe: nothing can be claimed of a step that does not exist. -/
  | stuckRefused
  /-- Raised by the operations that read `TABLE[CUR]` when `CUR` is 14 or 15: `TableRead` is not defined there and must not
  return a default (20_memory.md R51). Safe, and no run reaches it (40_state_table.md R94). -/
  | noEntry (s : StateId)
  /-- Raised by ADVANCE and STATE on an entry whose transition list is not eight long. Safe, and no run reaches it: INIT
  refuses such a table (60_exceptions.md R150). -/
  | missingTransition (s : StateId)
  /-- Raised by a step that is asked for a port operation by a word that selects none (30_encoding.md R80 (e),
  93_implementation_defined.md U12 "`stuck` if a model enumerates them"). Safe: the engine never issues one. -/
  | badPortWord (e : DecodeError)
deriving DecidableEq, Repr

/-- An operation the model gives no meaning. -/
inductive Refusal where
  /-- Raised by `exec` alone, for an operation that has no meaning yet; no arm does. Safe. -/
  | notModelled (mnemonic : String)
deriving DecidableEq, Repr

/-- What the next step is taken from (log entry 7; the model's own, no hardware). -/
inductive Source where
  /-- one phase, decided by `PH` alone: the hardware's own rule (41_fsm_engine.md R110) -/
  | phase
  /-- one whole iteration at EMITV, the table entry read as the instruction (41_fsm_engine.md R111); a phase elsewhere -/
  | iteration
  /-- one port operation by itself (43_ports.md R140 to R142), then phases again -/
  | port (sel : BitVec 3) (data : BitVec 6)
deriving DecidableEq, Repr

/-- The state of the machine. The first seven fields are the spec's (10_state.md R21 to R27). -/
structure State where
  /-- `PH`, the phase register (R26) -/
  ph : Phase
  /-- `CUR`, the current-state register (R21) -/
  cur : StateId
  /-- `VOUT`, the vehicle-light output register (R22) -/
  vout : VMask
  /-- `POUT`, the pedestrian-light output register (R23) -/
  pout : PMask
  /-- `SMP`, the input-sample latch (R24) -/
  smp : Sample
  /-- `CNT`, the tick counter (R25) -/
  cnt : BitVec 8
  /-- `T`, ghost time in quanta (R27) -/
  t : Nat
  /-- `TABLE`, configuration that no step writes (R28, 20_memory.md R50; log entry 5) -/
  table : Table
  /-- what the last `ConfigDefect` recorded, for the model's benefit (60_exceptions.md R151) -/
  defect : Option Defect
  /-- the model's own: the value the last read of `IN` returned (log entry 4) -/
  lastRead : Option Sample
  /-- the model's own: the samples the environment gives next, oldest first (log entry 3) -/
  script : List Sample
  /-- the model's own: how many free values have been taken (log entry 2) -/
  free : Nat
  /-- the model's own: a RESET event has occurred and waits to be taken (log entry 6) -/
  resetPending : Bool
  /-- the model's own: what the next step is taken from (log entry 7) -/
  source : Source
deriving DecidableEq, Repr

/-- The state a reset leaves on a table (10_state.md R33, 70_reset_and_hazards.md R170): `PH` = INIT, `CUR` = START, `T` = 0;
`VOUT`, `POUT`, `CNT`, `SMP` unspecified, taken as the `n`-th free values (log entry 1). -/
def State.resetWith (tbl : Table) (script : List Sample) (n : Nat) : State where
  ph := .init
  cur := Config.start
  vout := Config.freeVout n
  pout := poutOf (Config.freePout n)
  smp := Config.freeSmp n
  cnt := Config.freeCnt n
  t := 0
  table := tbl
  defect := none
  lastRead := none
  script := script
  free := n + 1
  resetPending := false
  source := .phase

/-- The machine right after reset: the table is the parameter TABLE, nothing is scripted. -/
def State.reset : State := State.resetWith Config.table [] 0

end Sys2Proof.Machine
end

