-- ==== Sys2Proof/Machine/Ops.lean ====
section
/-! DEFINITION. The operations the meanings share: the three port accesses (43_ports.md), the wait (42_timing.md), taking
`ConfigDefect` (60_exceptions.md R157), the RESET event (70_reset_and_hazards.md R170) and choosing what a step performs. -/

namespace Sys2Proof.Machine

/-- `PH <- p`. -/
def goTo (p : Phase) (s : State) : State := { s with ph := p }

/-- `PortWrite(VOUT, m)`: all six bits at once, nothing checked, nothing inverted (43_ports.md R140). -/
def portWriteVout (m : VMask) (s : State) : State := { s with vout := m }

/-- `PortWrite(POUT, m)`: bits 3 and 1, both at once; bits 2 and 0 are ignored and stay 0 (43_ports.md R141). -/
def portWritePout (m : PMask) (s : State) : State := { s with pout := poutOf m }

/-- The sample the environment gives at this instant: the next of its script, or a free draw (10_state.md R29). -/
def envSample (s : State) : Sample :=
  match s.script with
  | i :: _ => i
  | [] => Config.freeSample s.free

/-- `PortRead(IN)`: the value is `envSample`. Nothing of the hardware changes (43_ports.md R142); the environment has
given one sample. -/
def portReadIn (s : State) : State :=
  match s.script with
  | i :: rest => { s with lastRead := some i, script := rest }
  | [] => { s with lastRead := some (Config.freeSample s.free), free := s.free + 1 }

/-- `SMP` is dead: from here its value is unspecified (10_state.md R24), a free value. -/
def dropSample (s : State) : State := { s with smp := Config.freeSmp s.free, free := s.free + 1 }

/-- `CNT` is dead: from SAMPLE to the next LOAD it is any value (93_implementation_defined.md U11; log entry 11), a free
value. -/
def dropCount (s : State) : State := { s with cnt := Config.freeCnt s.free, free := s.free + 1 }

/-- `await_tick()` with what one completed quantum does: `CNT <- CNT - 1`, `T <- T + 1` (42_timing.md R132, R134). -/
def tick (s : State) : State := { s with cnt := cntDown s.cnt, t := s.t + 1 }

/-- WAITN, `wait(n)`: `n` quanta pass, `T` grows by `n`, `CNT` ends at 0, nothing else changes (42_timing.md R130). -/
def waitN (n : Quanta) (s : State) : State := { s with cnt := 0, t := s.t + n.toNat }

/-- Taking `ConfigDefect`: its whole effect is `PH <- REFUSED`; the information is recorded for the model
(60_exceptions.md R151, R157). There is no return from it (R158). -/
def raiseConfigDefect (d : Defect) (s : State) : State := { s with ph := .refused, defect := some d }

/-- The RESET event: nothing of the hardware's state before it survives (70_reset_and_hazards.md R170); the table and what
the environment will do are not the hardware's. -/
def resetEvent (s : State) : State := State.resetWith s.table s.script s.free

/-- What the next step performs. `PH` alone decides (41_fsm_engine.md R110); the other two sources are log entry 7. -/
def fetch (s : State) : Except Fault Instr :=
  match s.source with
  | .phase => .ok (Phase.ofCode s.ph.code).instr
  | .iteration =>
    match s.ph with
    | .emitv =>
      match tableRead s.table s.cur with
      | some e => .ok (.state e)
      | none => .error (.noEntry s.cur)
    | p => .ok (Phase.ofCode p.code).instr
  | .port sel data =>
    match decode (.port sel data) with
    | .ok i => .ok i
    | .error e => .error (.badPortWord e)

/-- A port operation is taken once; phases and iterations go on. -/
def retireSource (s : State) : State :=
  match s.source with
  | .port _ _ => { s with source := .phase }
  | _ => s

/-- A state whose next step performs the phase of code `c`. -/
def placePhase (c : BitVec 3) (s : State) : State :=
  { s with ph := Phase.ofCode c, source := .phase, resetPending := false }

/-- The slot a placed entry goes to: `CUR`'s, or START's if `CUR` names none. -/
def placeSlot (s : State) : StateId := if s.cur.toNat < 14 then s.cur else Config.start

/-- A state whose next step performs one iteration on the entry word `w`, put in the current state's slot. -/
def placeEntry (w : BitVec 50) (s : State) : State :=
  { s with
    table := tablePut s.table (placeSlot s) (Entry.unpack w)
    cur := placeSlot s
    ph := .emitv
    source := .iteration
    resetPending := false }

/-- A state whose next step performs what a code word says. An entry word that the decoder rejects places nothing. -/
def placeWord (c : CodeWord) (s : State) : State :=
  match c with
  | .ph c => placePhase c s
  | .port sel data => { s with source := .port sel data, resetPending := false }
  | .entry w =>
    match decodeEntry w with
    | .ok _ => placeEntry w s
    | .error _ => s

/-- Real time spent in holds since reset, in milliseconds, a lower bound of real time (10_state.md R27,
70_reset_and_hazards.md R182, R183). -/
def heldMs (s : State) : Nat := s.t * Config.quantumMs

end Sys2Proof.Machine
end

