-- ==== Sys2Proof/Machine/Engine.lean ====
section
/-! DEFINITION. The engine's phases other than the wait (41_fsm_engine.md R112 to R118). All right-hand sides are evaluated
on the state before the step (00_scope.md R10). -/

namespace Sys2Proof.Machine

/-- INIT (R112): the table is checked; `CUR <- START` and the loop starts, or `ConfigDefect` is taken. No port is written. -/
def execInit (s : State) : Host.Outcome State Fault Refusal :=
  .next <| match validate s.table with
    | none => { s with cur := Config.start, ph := .emitv }
    | some d => raiseConfigDefect d s

/-- EMITV (R114): `VOUT <- E.V`, `PH <- EMITP`. -/
def execEmitv (s : State) : Host.Outcome State Fault Refusal :=
  match tableRead s.table s.cur with
  | some e => .next (goTo .emitp (portWriteVout e.v s))
  | none => .fault (.noEntry s.cur)

/-- EMITP (R115): `POUT[3] <- E.P[3]`, `POUT[1] <- E.P[1]`, `PH <- LOAD`. -/
def execEmitp (s : State) : Host.Outcome State Fault Refusal :=
  match tableRead s.table s.cur with
  | some e => .next (goTo .load (portWritePout e.p.mask s))
  | none => .fault (.noEntry s.cur)

/-- SAMPLE (R116): `SMP <- PortRead(IN)`, `PH <- ADVANCE`; `CNT` is dead afterwards. -/
def execSample (s : State) : Host.Outcome State Fault Refusal :=
  .next (goTo .advance { dropCount (portReadIn s) with smp := envSample s })

/-- ADVANCE (R117): `CUR <- NEXT(CUR, SMP)`, `PH <- EMITV`; `SMP` is dead afterwards. -/
def execAdvance (s : State) : Host.Outcome State Fault Refusal :=
  match tableRead s.table s.cur with
  | some e =>
    match entryNext e s.smp with
    | some n => .next (goTo .emitv (dropSample { s with cur := n }))
    | none => .fault (.missingTransition s.cur)
  | none => .fault (.noEntry s.cur)

/-- REFUSED (R118): "the machine has no step in this phase and stays in it until the next reset". -/
def execRefused (_s : State) : Host.Outcome State Fault Refusal := .fault .stuckRefused

end Sys2Proof.Machine
end

