-- ==== Sys2Proof/Machine/Iteration.lean ====
section
/-! DEFINITION. One table entry as the machine's only instruction word: the big step ITER (41_fsm_engine.md R111). -/

namespace Sys2Proof.Machine

/-- Steps 2 and 3 of ITER: both masks written, then the wait (R111). -/
def showAndHold (e : Entry) (s : State) : State := waitN e.d (portWritePout e.p.mask (portWriteVout e.v s))

/-- STATE (R111): show the masks, hold `E.D` quanta, sample, and go to the state the sample selects. -/
def execState (e : Entry) (s : State) : Host.Outcome State Fault Refusal :=
  match entryNext e (envSample (showAndHold e s)) with
  | some n => .next (goTo .emitv (dropSample { dropCount (portReadIn (showAndHold e s)) with cur := n }))
  | none => .fault (.missingTransition s.cur)

end Sys2Proof.Machine
end

