-- ==== Sys2Proof/Machine/Ports.lean ====
section
/-! DEFINITION. The port operations by themselves (43_ports.md R140 to R142). Inside an iteration the engine performs them as
parts of EMITV, EMITP and SAMPLE. -/

namespace Sys2Proof.Machine

/-- WRV, `writeVehicleLights(m)` (R140). -/
def execWrv (m : VMask) (s : State) : Host.Outcome State Fault Refusal := .next (portWriteVout m s)

/-- WRP, `writePedestrianLights(m)` (R141). -/
def execWrp (m : PMask) (s : State) : Host.Outcome State Fault Refusal := .next (portWritePout m s)

/-- RDIN, `readInputs()` (R142): the value returned is in `lastRead`. -/
def execRdin (s : State) : Host.Outcome State Fault Refusal := .next (portReadIn s)

end Sys2Proof.Machine
end

