-- ==== Sys2Proof/Machine/Timing.lean ====
section
/-! DEFINITION. The two phases of the wait (42_timing.md R131, R132). -/

namespace Sys2Proof.Machine

/-- LOAD (R131): `CNT <- zext_8(E.D)`, `PH <- WAIT`; no modelled time. -/
def execLoad (s : State) : Host.Outcome State Fault Refusal :=
  match tableRead s.table s.cur with
  | some e => .next (goTo .wait { s with cnt := countOf e.d })
  | none => .fault (.noEntry s.cur)

/-- WAIT (R132): at `CNT` = 0 the wait is over and `PH <- SAMPLE`; otherwise one quantum passes and `PH` stays WAIT. -/
def execWait (s : State) : Host.Outcome State Fault Refusal :=
  .next (if cntIsZero s.cnt then goTo .sample s else tick s)

end Sys2Proof.Machine
end

