-- ==== Sys2Proof/Machine/Dispatch.lean ====
section
/-! DEFINITION. One arm per operation of the opcode table. -/

namespace Sys2Proof.Machine

def exec (i : Instr) (s : State) : Host.Outcome State Fault Refusal :=
  match i with
  | .init => Sys2Proof.Machine.execInit s
  | .emitv => Sys2Proof.Machine.execEmitv s
  | .emitp => Sys2Proof.Machine.execEmitp s
  | .load => Sys2Proof.Machine.execLoad s
  | .wait => Sys2Proof.Machine.execWait s
  | .sample => Sys2Proof.Machine.execSample s
  | .advance => Sys2Proof.Machine.execAdvance s
  | .refused => Sys2Proof.Machine.execRefused s
  | .wrv m => Sys2Proof.Machine.execWrv m s
  | .wrp m => Sys2Proof.Machine.execWrp m s
  | .rdin => Sys2Proof.Machine.execRdin s
  | .state e => Sys2Proof.Machine.execState e s

end Sys2Proof.Machine
end

