-- ==== Sys2Proof/Machine/Step.lean ====
section
/-! DEFINITION. One step (41_fsm_engine.md R110), and how an operation is put where the next step takes it. -/

namespace Sys2Proof.Machine

/-- One step: a pending RESET is taken first (70_reset_and_hazards.md R170: it may occur at any time); otherwise the
operation that is due is performed. -/
def step (s : State) : Host.Outcome State Fault Refusal :=
  if s.resetPending then .next (resetEvent s)
  else
    match fetch s with
    | .ok i => exec i (retireSource s)
    | .error f => .fault f

/-- `s` with the operation of a row's bits placed so that the next step performs it (log entry 5 for a table entry: it is
loaded from outside the machine). Bits that are no word of a row place nothing. -/
def State.withFetchWord (s : State) (nbits w : Nat) : State :=
  match tableWord nbits w with
  | some c => placeWord c s
  | none => s

end Sys2Proof.Machine
end

