-- ==== Sys2Proof/Machine/Policy.lean ====
section
/-! DEFINITION. What the source says of every table of this hardware (40_state_table.md R93 to R102), as predicates on a table
and its roles. The hardware enforces R94 and the count of R93, through VALIDATE, and nothing else (R108); the others are
hypotheses a claim names. -/

namespace Sys2Proof.Machine

/-- The roles states play, part of the parameter TABLE (40_state_table.md section 2). `START` is `Config.start`; the green
states are read off the masks. -/
structure Roles where
  walk : StateId
  f1a : StateId
  f1b : StateId
  f2a : StateId
  f2b : StateId
  buf : List StateId
  southStartY : StateId
  allRedS : StateId
deriving DecidableEq, Repr

/-- The state a sequence of samples leads to: `s_0 = s`, `s_(k+1) = NEXT(s_k, i_k)` (41_fsm_engine.md R111). -/
def path (tbl : Table) (s : StateId) : List Sample → Option StateId
  | [] => some s
  | i :: rest =>
    match tableNext tbl s i with
    | some n => path tbl n rest
    | none => none

/-- The quanta held along a sequence of samples: `E_0.D + ... + E_(k-1).D` (41_fsm_engine.md R111). -/
def holdSum (tbl : Table) (s : StateId) : List Sample → Nat
  | [] => 0
  | i :: rest =>
    match tableRead tbl s, tableNext tbl s i with
    | some e, some n => e.d.toNat + holdSum tbl n rest
    | _, _ => 0

/-- The phases performed along a sequence of samples, `D + 6` an iteration: EMITV, EMITP, LOAD, `D` quanta, the end of the
wait, SAMPLE, ADVANCE (95_test_vectors.md part 2.4). -/
def stepCount (tbl : Table) (s : StateId) : List Sample → Nat
  | [] => 0
  | i :: rest =>
    match tableRead tbl s, tableNext tbl s i with
    | some e, some n => (e.d.toNat + 6) + stepCount tbl n rest
    | _, _ => 0

/-- A state reachable from START. -/
def Reachable (tbl : Table) (s : StateId) : Prop := ∃ ins, path tbl Config.start ins = some s

/-- A property of the entry of a state that has one. -/
def EntryHas (tbl : Table) (s : StateId) (P : Entry → Prop) : Prop := ∃ e, tableRead tbl s = some e ∧ P e

/-- `GREEN_NS`: the NS green bit is set. -/
def GreenNs (tbl : Table) (s : StateId) : Prop := EntryHas tbl s fun e => vLit e.v .nsGreen = true

/-- `GREEN_EW`: the EW green bit is set. -/
def GreenEw (tbl : Table) (s : StateId) : Prop := EntryHas tbl s fun e => vLit e.v .ewGreen = true

/-- The lamps of one vehicle direction. -/
structure Direction where
  green : VLamp
  yellow : VLamp
  opposing : Sensor
deriving DecidableEq, Repr

/-- North/south. -/
def dirNs : Direction := ⟨.nsGreen, .nsYellow, .ewCar⟩

/-- East/west. -/
def dirEw : Direction := ⟨.ewGreen, .ewYellow, .nsCar⟩

/-- R93, shape: reserved mask bits 0, a positive duration, eight transitions. -/
def Shaped (tbl : Table) : Prop :=
  ∀ s e, tableRead tbl s = some e → e.p.mask &&& 0b0101 = 0 ∧ 1 ≤ e.d.toNat ∧ e.t.length = 8

/-- R94, closure: no dangling reference. -/
def Closed (tbl : Table) : Prop := ∀ s e, tableRead tbl s = some e → ∀ n ∈ e.t, n.toNat ≤ 13

/-- R95, the start state: both reds and no green, a buffer state; input 0 stays, input `0b010` goes to NS green. -/
def StartRule (tbl : Table) (r : Roles) : Prop :=
  EntryHas tbl Config.start (fun e =>
    vLit e.v .nsRed = true ∧ vLit e.v .ewRed = true ∧ vLit e.v .nsGreen = false ∧ vLit e.v .ewGreen = false) ∧
  Config.start ∈ r.buf ∧
  tableNext tbl Config.start 0b000 = some Config.start ∧
  ∃ g, tableNext tbl Config.start 0b010 = some g ∧ GreenNs tbl g

/-- Buffer states show no vehicle green (00_scope.md glossary). -/
def BuffersDark (tbl : Table) (r : Roles) : Prop :=
  ∀ b ∈ r.buf, EntryHas tbl b fun e => vLit e.v .nsGreen = false ∧ vLit e.v .ewGreen = false

/-- R96, the transitions of the pedestrian sequence: fixed, whatever the inputs, and ending in one buffer state. -/
def PedestrianPath (tbl : Table) (r : Roles) : Prop :=
  (∀ i, tableNext tbl r.walk i = some r.f1a) ∧
  (∀ i, tableNext tbl r.f1a i = some r.f1b) ∧
  (∀ i, tableNext tbl r.f1b i = some r.f2a) ∧
  (∀ i, tableNext tbl r.f2a i = some r.f2b) ∧
  ∃ b ∈ r.buf, ∀ i, tableNext tbl r.f2b i = some b

/-- R96, "flash-on, flash-off, repeated once": some pedestrian lamp is lit at F1A and F2A and dark at F1B and F2B. Which lamp
it is the source does not say (91_not_in_source.md N11). -/
def PedestrianFlash (tbl : Table) (r : Roles) : Prop :=
  ∃ k : PLamp,
    EntryHas tbl r.f1a (fun e => pLit e.p.mask k = true) ∧ EntryHas tbl r.f1b (fun e => pLit e.p.mask k = false) ∧
    EntryHas tbl r.f2a (fun e => pLit e.p.mask k = true) ∧ EntryHas tbl r.f2b (fun e => pLit e.p.mask k = false)

/-- R96, the pedestrian sequence: its transitions, the walk bit at WALK, the flashing, don't-walk at the buffer state after
it. -/
def PedestrianSequence (tbl : Table) (r : Roles) : Prop :=
  PedestrianPath tbl r ∧
  EntryHas tbl r.walk (fun e => pLit e.p.mask .walk = true) ∧
  PedestrianFlash tbl r ∧
  ∀ i b, tableNext tbl r.f2b i = some b → EntryHas tbl b fun e => pLit e.p.mask .dontWalk = true

/-- R97, pedestrian priority at every buffer state. -/
def PedestrianPriority (tbl : Table) (r : Roles) : Prop :=
  ∀ b ∈ r.buf, ∀ i, senses i .pedestrian = true → tableNext tbl b i = some r.walk

/-- Two states between which a buffer state must stand (R98). -/
def Conflicting (tbl : Table) (r : Roles) (a c : StateId) : Prop :=
  (GreenNs tbl a ∧ (GreenEw tbl c ∨ c = r.walk)) ∨
  (GreenEw tbl a ∧ (GreenNs tbl c ∨ c = r.walk)) ∨
  (a = r.walk ∧ (GreenNs tbl c ∨ GreenEw tbl c))

/-- R98, a buffer state on every path between conflicting states. -/
def Buffered (tbl : Table) (r : Roles) : Prop :=
  ∀ a c ins, Conflicting tbl r a c → path tbl a ins = some c →
    ∃ k, k ≤ ins.length ∧ ∃ b ∈ r.buf, path tbl a (ins.take k) = some b

/-- From `b`, with the sample `i` at every sampling, direction `d` is the next one granted: only buffer states come before its
green. -/
def GrantedNext (tbl : Table) (r : Roles) (d : Direction) (b : StateId) (i : Sample) : Prop :=
  ∃ k c, path tbl b (List.replicate k i) = some c ∧ (EntryHas tbl c fun e => vLit e.v d.green = true) ∧
    ∀ j, j < k → ∃ q ∈ r.buf, path tbl b (List.replicate j i) = some q

/-- R98, the cyclic ordering, from `d` to `next`: while both directions ask and no pedestrian does, the first buffer state
after a reachable green of `d` grants `next`, so `d` waits for its turn. -/
def TurnPasses (tbl : Table) (r : Roles) (d next : Direction) : Prop :=
  ∀ g, Reachable tbl g → (EntryHas tbl g fun e => vLit e.v d.green = true) →
    ∃ m, ∃ b ∈ r.buf, path tbl g (List.replicate m 0b011) = some b ∧
      (∀ j, j < m → ∀ q ∈ r.buf, path tbl g (List.replicate j 0b011) ≠ some q) ∧ GrantedNext tbl r next b 0b011

/-- R98, the two-way round-robin among the vehicle directions (90_conflicts.md C3). Without a pedestrian request a buffer state
leads to a vehicle grant or to a buffer state; a direction that alone keeps asking there is the next one granted; with both
asking the directions take turns. The tie at a buffer state that follows no vehicle phase, and which of those
input 0 leads to, are left open. -/
def RoundRobin (tbl : Table) (r : Roles) : Prop :=
  (∀ b ∈ r.buf, ∀ i, senses i .pedestrian = false →
    ∃ n, tableNext tbl b i = some n ∧ (n ∈ r.buf ∨ GreenNs tbl n ∨ GreenEw tbl n)) ∧
  (∀ b ∈ r.buf, GrantedNext tbl r dirNs b 0b010 ∧ GrantedNext tbl r dirEw b 0b001) ∧
  TurnPasses tbl r dirNs dirEw ∧ TurnPasses tbl r dirEw dirNs

/-- A state that lights one direction's yellow and no green, left only to buffer states (R99 (c)). -/
def YellowPhase (tbl : Table) (r : Roles) (d : Direction) (y : StateId) : Prop :=
  EntryHas tbl y (fun e => vLit e.v d.yellow = true ∧ vLit e.v .nsGreen = false ∧ vLit e.v .ewGreen = false) ∧
  ∀ i, ∃ b ∈ r.buf, tableNext tbl y i = some b

/-- R99, the green phase of one direction. -/
def GreenPhase (tbl : Table) (r : Roles) (d : Direction) : Prop :=
  ∃ g, EntryHas tbl g (fun e => vLit e.v d.green = true) ∧
    tableNext tbl g 0b000 = some g ∧
    (∀ i, senses i d.opposing = false → senses i .pedestrian = false →
      ∃ n, tableNext tbl g i = some n ∧ EntryHas tbl n fun e => vLit e.v d.green = true) ∧
    (∀ i, senses i d.opposing = true ∨ senses i .pedestrian = true →
      ∃ n, tableNext tbl g i = some n ∧
        (YellowPhase tbl r d n ∨ ∃ y, (∀ j, tableNext tbl n j = some y) ∧ YellowPhase tbl r d y))

/-- R99 for both directions. -/
def GreenPhases (tbl : Table) (r : Roles) : Prop := GreenPhase tbl r dirNs ∧ GreenPhase tbl r dirEw

/-- R100, mutual exclusion: no reachable state has both greens, no state has a green with walk. -/
def MutualExclusion (tbl : Table) : Prop :=
  (∀ s e, Reachable tbl s → tableRead tbl s = some e → ¬ (vLit e.v .nsGreen = true ∧ vLit e.v .ewGreen = true)) ∧
  ∀ s e, tableRead tbl s = some e → pLit e.p.mask .walk = true → vLit e.v .nsGreen = false ∧ vLit e.v .ewGreen = false

/-- R101, the degenerate state: every input leads back to it, it is not START, and no other state leads into it; `AllRedS`
is a buffer state. -/
def Degenerate (tbl : Table) (r : Roles) : Prop :=
  (∀ i, tableNext tbl r.southStartY i = some r.southStartY) ∧
  r.southStartY ≠ Config.start ∧
  (∀ s i, tableNext tbl s i = some r.southStartY → s = r.southStartY) ∧
  r.allRedS ∈ r.buf

/-- R102, liveness of the policy: from every reachable state there are samples that lead to walk and to each green, and a
constant pedestrian request leads from START to walk. -/
def PolicyLive (tbl : Table) (r : Roles) : Prop :=
  (∀ s, Reachable tbl s →
    (∃ ins, path tbl s ins = some r.walk) ∧
    (∃ ins g, path tbl s ins = some g ∧ GreenNs tbl g) ∧
    ∃ ins g, path tbl s ins = some g ∧ GreenEw tbl g) ∧
  ∃ k, path tbl Config.start (List.replicate k 0b100) = some r.walk

/-- Everything the source says of a table (R93 to R102). -/
def Policy (tbl : Table) (r : Roles) : Prop :=
  Shaped tbl ∧ Closed tbl ∧ StartRule tbl r ∧ BuffersDark tbl r ∧ PedestrianSequence tbl r ∧
  PedestrianPriority tbl r ∧ Buffered tbl r ∧ RoundRobin tbl r ∧ GreenPhases tbl r ∧ MutualExclusion tbl ∧ Degenerate tbl r ∧
  PolicyLive tbl r

end Sys2Proof.Machine
end

