-- ==== Sys2Proof/Machine/Reference.lean ====
section
/-! DEFINITION. `TABLE_REF`, the spec's own instance of TABLE (40_state_table.md R105, D2). A claim about it is a claim about
the spec's example, not about the repository's table (91_not_in_source.md N1). -/

namespace Sys2Proof.Machine

/-- A transition list whose eight entries are one state. -/
def allTo (n : StateId) : List StateId := [n, n, n, n, n, n, n, n]

/-- `TABLE_REF` (40_state_table.md R105). -/
def tableRef : Table where
  e0 := { v := vAllRed, p := .ofMask pDont, d := Config.dShort, t := [0, 5, 1, 5, 9, 9, 9, 9] }
  e1 := { v := vNsGreen, p := .ofMask pDont, d := Config.dLong, t := [1, 3, 1, 3, 3, 3, 3, 3] }
  e2 := { v := vNsGreen, p := .ofMask pDont, d := Config.dLong, t := allTo 2 }
  e3 := { v := vNsYellow, p := .ofMask pDont, d := Config.dLong, t := allTo 4 }
  e4 := { v := vAllRed, p := .ofMask pDont, d := Config.dShort, t := [4, 5, 1, 5, 9, 9, 9, 9] }
  e5 := { v := vEwGreen, p := .ofMask pDont, d := Config.dLong, t := [5, 5, 6, 6, 6, 6, 6, 6] }
  e6 := { v := vEwGreen, p := .ofMask pDont, d := Config.dLong, t := allTo 7 }
  e7 := { v := vEwYellow, p := .ofMask pDont, d := Config.dLong, t := allTo 8 }
  e8 := { v := vAllRed, p := .ofMask pDont, d := Config.dShort, t := [8, 5, 1, 1, 9, 9, 9, 9] }
  e9 := { v := vAllRed, p := .ofMask pWalk, d := Config.dShort, t := allTo 10 }
  e10 := { v := vAllRed, p := .ofMask pDont, d := Config.dShort, t := allTo 11 }
  e11 := { v := vAllRed, p := .ofMask pOff, d := Config.dShort, t := allTo 12 }
  e12 := { v := vAllRed, p := .ofMask pDont, d := Config.dShort, t := allTo 13 }
  e13 := { v := vAllRed, p := .ofMask pOff, d := Config.dShort, t := allTo 0 }

/-- The roles of `TABLE_REF` (40_state_table.md R105). -/
def rolesRef : Roles where
  walk := 9
  f1a := 10
  f1b := 11
  f2a := 12
  f2b := 13
  buf := [0, 4, 8]
  southStartY := 2
  allRedS := 4

/-- The names of `TABLE_REF` (40_state_table.md R105); 14 and 15 name no state. -/
def nameRef (s : StateId) : Option String :=
  ["AllRed", "GoS", "SouthStartY", "YellowS", "AllRedS", "GoW", "WestStartY", "YellowW", "AllRedW", "Walk", "Flash1a",
    "Flash1b", "Flash2a", "Flash2b"][s.toNat]?

end Sys2Proof.Machine
end

