-- ==== Sys2Proof/Machine/TableParam.lean ====
section
/-! DEFINITION. The step with the table as its parameter and not as a field of the state (10_state.md R28). `step` takes the
table from a field because the host's machine has one argument; that both are the same machine is a statement. -/

namespace Sys2Proof.Machine

/-- The machine's state without the table, field for field as in `State`: what R28 leaves as state. -/
structure Hw where
  ph : Phase
  cur : StateId
  vout : VMask
  pout : PMask
  smp : Sample
  cnt : BitVec 8
  t : Nat
  defect : Option Defect
  lastRead : Option Sample
  script : List Sample
  free : Nat
  resetPending : Bool
  source : Source
deriving DecidableEq, Repr

/-- The hardware on a table. -/
def Hw.on (tbl : Table) (h : Hw) : State where
  ph := h.ph
  cur := h.cur
  vout := h.vout
  pout := h.pout
  smp := h.smp
  cnt := h.cnt
  t := h.t
  table := tbl
  defect := h.defect
  lastRead := h.lastRead
  script := h.script
  free := h.free
  resetPending := h.resetPending
  source := h.source

/-- The hardware of a machine, its table left out. -/
def State.hw (s : State) : Hw where
  ph := s.ph
  cur := s.cur
  vout := s.vout
  pout := s.pout
  smp := s.smp
  cnt := s.cnt
  t := s.t
  defect := s.defect
  lastRead := s.lastRead
  script := s.script
  free := s.free
  resetPending := s.resetPending
  source := s.source

/-- An outcome with its next state seen through a function. -/
def mapNext {A B : Type} (f : A → B) : Host.Outcome A Fault Refusal → Host.Outcome B Fault Refusal
  | .next a => .next (f a)
  | .fault e => .fault e
  | .refused r => .refused r

/-- The step function of R28: the table is a parameter, and the state that goes in and comes out holds none. -/
def stepOn (tbl : Table) (h : Hw) : Host.Outcome Hw Fault Refusal := mapNext State.hw (step (h.on tbl))

/-- The hardware right after reset (10_state.md R33), the same on every table. -/
def Hw.reset : Hw := State.reset.hw

/-- The machine of R28 on a table, as the host's interface has machines. -/
def coreOn (tbl : Table) : Host.Core where
  State := Hw
  Fault := Fault
  Refusal := Refusal
  step := stepOn tbl
  reset := Hw.reset

end Sys2Proof.Machine
end

