-- ==== Sys2Proof/Safety.lean ====
section
/-! DEFINITION. The terms claims are stated in: runs, the invariants of the machine, what a run shows. -/

namespace Sys2Proof.Machine

/-- `k` steps of the machine. -/
def runs (k : Nat) (s : State) : Host.Outcome State Fault Refusal := Host.Core.run Sys2Proof.core k s

/-- The engine's own steps: no RESET waits and the next step is a phase (41_fsm_engine.md R110). -/
def Engine (s : State) : Prop := s.resetPending = false ∧ s.source = .phase

/-- `POUT[0]` and `POUT[2]` are 0 (10_state.md R23). -/
def PoutWf (s : State) : Prop := s.pout &&& 0b0101 = 0

/-- `CUR` holds a state identifier (10_state.md R21). -/
def CurNamed (s : State) : Prop := s.cur.toNat ≤ 13

/-- The invariant of the machine on any table: the hard-wired bits of `POUT` read 0 (10_state.md R23), `CUR` names a state
(R21), a machine past INIT runs on a table that passed the check, and a refused one on a table that did not
(41_fsm_engine.md R112). -/
def MachineInv (s : State) : Prop :=
  PoutWf s ∧ CurNamed s ∧
  (s.ph = .refused → ∃ d, validate s.table = some d ∧ s.defect = some d) ∧
  (s.ph ≠ .init → s.ph ≠ .refused → validate s.table = none)

/-- What the lamps show at each phase (41_fsm_engine.md R119): after EMITV the vehicle mask of `CUR`, after EMITP both
masks. -/
def LampsOfCur (s : State) : Prop :=
  match s.ph with
  | .emitp => EntryHas s.table s.cur fun e => s.vout = e.v
  | .load | .wait | .sample | .advance => EntryHas s.table s.cur fun e => s.vout = e.v ∧ s.pout = e.p.mask
  | .init | .emitv | .refused => True

/-- What the counter holds at each phase (42_timing.md R131, R132): at most the hold while waiting, 0 when the wait has
completed. From SAMPLE to the next LOAD it is any value (93_implementation_defined.md U11). -/
def CountOfCur (s : State) : Prop :=
  match s.ph with
  | .wait => EntryHas s.table s.cur fun e => s.cnt.toNat ≤ e.d.toNat
  | .sample => s.cnt = 0
  | .init | .emitv | .emitp | .load | .advance | .refused => True

/-- The invariant of a machine whose table passes the check and that takes no port operation by itself: besides
`MachineInv`, the machine is not refused, and lamps and counter belong to `CUR`. -/
def RunInv (s : State) : Prop :=
  MachineInv s ∧ validate s.table = none ∧ s.ph ≠ .refused ∧ (s.source = .phase ∨ s.source = .iteration) ∧
  LampsOfCur s ∧ CountOfCur s

/-- The phases in which the lamps belong to `CUR` (41_fsm_engine.md R119). -/
def HoldPhase (p : Phase) : Prop := p = .load ∨ p = .wait ∨ p = .sample ∨ p = .advance

/-- The lamps of a machine past its first EMITP (41_fsm_engine.md R119): in EMITV both registers show a state `prev` that led
to `CUR`, in EMITP the vehicle lamps are those of `CUR` and the pedestrian lamps those of `prev`, from LOAD to ADVANCE both are
those of `CUR`. -/
def Shown (s : State) : Prop :=
  match s.ph with
  | .emitv => ∃ prev i, tableNext s.table prev i = some s.cur ∧
      EntryHas s.table prev fun e => s.vout = e.v ∧ s.pout = e.p.mask
  | .emitp => EntryHas s.table s.cur (fun e => s.vout = e.v) ∧
      ∃ prev i, tableNext s.table prev i = some s.cur ∧ EntryHas s.table prev fun e => s.pout = e.p.mask
  | .load | .wait | .sample | .advance => EntryHas s.table s.cur fun e => s.vout = e.v ∧ s.pout = e.p.mask
  | .init | .refused => False

/-- A machine on `TABLE_REF` past its first EMITP, away from the dead state. -/
def RefShown (s : State) : Prop := Engine s ∧ s.table = tableRef ∧ s.cur ≠ 2 ∧ Shown s

/-- Two states that agree on what the hardware and its properties hold: everything the spec gives the machine, the counter
and the sample latch only where a rule reads them (10_state.md R24, 93_implementation_defined.md U11). -/
def HwAgree (a b : State) : Prop :=
  a.ph = b.ph ∧ a.cur = b.cur ∧ a.vout = b.vout ∧ a.pout = b.pout ∧ a.t = b.t ∧ a.table = b.table ∧
  (a.ph = .wait → a.cnt = b.cnt) ∧ (a.ph = .advance → a.smp = b.smp)

/-- The order of the phases (41_fsm_engine.md R110, 30_encoding.md R78). -/
def PhaseFollows (p q : Phase) : Prop :=
  match p with
  | .init => q = .emitv ∨ q = .refused
  | .emitv => q = .emitp
  | .emitp => q = .load
  | .load => q = .wait
  | .wait => q = .wait ∨ q = .sample
  | .sample => q = .advance
  | .advance => q = .emitv
  | .refused => False

end Sys2Proof.Machine
end

