-- ==== Sys2Proof/Certificates/Slice0/Obligations.lean ====
section
/-! DEFINITION. The statements for the provers. An equality `exec i s = .next { s with … }` says that the operation completes,
what it writes, and that it leaves every other piece of state (the table, the other registers, T) as it was. -/

open Sys2Proof Sys2Proof.Machine

/-! ### Words -/

/-- R78: every phase has its code, every code its phase, and the decoder reads a code as the phase's operation. -/
def Obligations.PhaseCodesNameThePhases : Prop :=
  (∀ p : Phase, Phase.ofCode p.code = p ∧ decode (.ph p.code) = .ok p.instr ∧ encode p.instr = .ph p.code) ∧
  (∀ c : BitVec 3, (Phase.ofCode c).code = c) ∧
  Phase.init.code = 0b000 ∧ Phase.emitv.code = 0b001 ∧ Phase.emitp.code = 0b010 ∧ Phase.load.code = 0b011 ∧
  Phase.wait.code = 0b100 ∧ Phase.sample.code = 0b101 ∧ Phase.advance.code = 0b110 ∧ Phase.refused.code = 0b111

/-- R79, R80 (e): the selector is `rw :: port`; only `100`, `101` and `010` select an operation, and every operation of the
port has its selector. That a mask travels beside the selector on six lines is the model's choice (log entry 8). -/
def Obligations.PortSelectorsSelectThreeOperations : Prop :=
  portSelector true .vout = 0b100 ∧ portSelector true .pout = 0b101 ∧ portSelector false .inp = 0b010 ∧
  (∀ m, decode (.port 0b100 m) = .ok (.wrv m)) ∧
  (∀ m : PMask, decode (.port 0b101 (m.zeroExtend 6)) = .ok (.wrp m)) ∧
  decode (.port 0b010 0) = .ok .rdin ∧
  ∀ sel data, sel ≠ 0b100 → sel ≠ 0b101 → sel ≠ 0b010 → decode (.port sel data) = .error (.selectsNothing sel)

/-- R76: where each field of an entry stands in its 50-bit word, bit by bit, and which words are well formed. -/
def Obligations.EntryWordFields : Prop :=
  (∀ w : BitVec 50,
    (∀ k, k < 6 → (Entry.unpack w).v.getLsbD k = w.getLsbD k) ∧
    ((Entry.unpack w).p.mask.getLsbD 1 = w.getLsbD 7 ∧ (Entry.unpack w).p.mask.getLsbD 3 = w.getLsbD 9 ∧
      (Entry.unpack w).p.mask.getLsbD 0 = false ∧ (Entry.unpack w).p.mask.getLsbD 2 = false) ∧
    (∀ k, k < 8 → (Entry.unpack w).d.getLsbD k = w.getLsbD (10 + k)) ∧
    (Entry.unpack w).t.length = 8 ∧
    ∀ i, i < 8 → ∃ n, (Entry.unpack w).t[i]? = some n ∧ ∀ k, k < 4 → n.getLsbD k = w.getLsbD (18 + 4 * i + k)) ∧
  ∀ w : BitVec 50,
    decode (.entry w) = .ok (.state (Entry.unpack w)) ↔
      w.getLsbD 6 = false ∧ w.getLsbD 8 = false ∧ ∀ n ∈ (Entry.unpack w).t, n.toNat ≤ 13

/-- Decoding the code word of a well-formed operation gives the operation back, at every operand. The data lines of a port word
are the model's own (log entry 8). -/
def Obligations.DecodeOfEncode : Prop := ∀ i : Instr, i.wf = true → decode (encode i) = .ok i

/-- A word that decodes is the code word of what it decodes to, which is well formed: no two words mean the same. For port
words this rests on the data lines being refused where the operand has none (log entry 8), for entry words on R76. -/
def Obligations.EncodeOfDecode : Prop := ∀ (c : CodeWord) (i : Instr), decode c = .ok i → i.wf = true ∧ encode i = c

/-- Words of 95_test_vectors.md part 2.1 and a phase code of the opcode table, read by the decoder; the last clause is a port
word, whose selector is the spec's (R79) and whose six data lines are the model's own (log entry 8). -/
def Obligations.WordsOfTheSpecDecode : Prop :=
  decode (.entry 0x266654540C8A4) =
    .ok (.state { v := 0b100100, p := ⟨true, false⟩, d := 50, t := [0, 5, 1, 5, 9, 9, 9, 9] }) ∧
  decode (.entry 0x2AAAAAAA8CA24) =
    .ok (.state { v := 0b100100, p := ⟨false, true⟩, d := 50, t := [10, 10, 10, 10, 10, 10, 10, 10] }) ∧
  decode (.entry 0x266654540C8E4) = .error (.reservedBits 0x266654540C8E4) ∧
  decode (.entry 0x266654540C9A4) = .error (.reservedBits 0x266654540C9A4) ∧
  decode (.entry 0x3A6654540C8A4) = .error (.danglingTarget 0x3A6654540C8A4) ∧
  decode (.ph 0b110) = .ok .advance ∧ decode (.port 0b101 0b001000) = .ok (.wrp 0b1000)

/-- R70 to R73: the bit of each sensor and lamp, the named patterns, and that a table entry's pedestrian mask has bits 0 and 2
zero and is any of the four legal values (R72). -/
def Obligations.BitsOfSensorsAndLamps : Prop :=
  (∀ ped ns ew, senses (sampleOf ped ns ew) .pedestrian = ped ∧ senses (sampleOf ped ns ew) .nsCar = ns ∧
    senses (sampleOf ped ns ew) .ewCar = ew) ∧
  (∀ i : Sample, sampleOf (senses i .pedestrian) (senses i .nsCar) (senses i .ewCar) = i) ∧
  (∀ k : VLamp, (vLit vAllRed k = true ↔ k = .nsRed ∨ k = .ewRed) ∧
    (vLit vNsGreen k = true ↔ k = .nsGreen ∨ k = .ewRed) ∧ (vLit vNsYellow k = true ↔ k = .nsYellow ∨ k = .ewRed) ∧
    (vLit vEwGreen k = true ↔ k = .ewGreen ∨ k = .nsRed) ∧ (vLit vEwYellow k = true ↔ k = .ewYellow ∨ k = .nsRed)) ∧
  (∀ k : PLamp, (pLit pDont k = true ↔ k = .dontWalk) ∧ (pLit pWalk k = true ↔ k = .walk) ∧ pLit pOff k = false) ∧
  (∀ e : Entry, pLit e.p.mask .dontWalk = e.p.dontWalk ∧ pLit e.p.mask .walk = e.p.walk ∧
    e.p.mask.getLsbD 0 = false ∧ e.p.mask.getLsbD 2 = false) ∧
  ∀ m : PMask, (∃ p : PPattern, p.mask = m) ↔ m = 0b0000 ∨ m = 0b0010 ∨ m = 0b1000 ∨ m = 0b1010

/-! ### What a step performs -/

/-- R110: with no RESET waiting, a step is the operation of the phase in `PH`, whatever else the state holds. -/
def Obligations.StepPerformsThePhase : Prop :=
  ∀ s, Engine s → decode (.ph s.ph.code) = .ok s.ph.instr ∧ step s = exec s.ph.instr s

/-- R111 seen as one big step (the model's `source`, log entry 7): at EMITV a step is STATE on the entry of `CUR`, at any
other phase it is that phase. -/
def Obligations.StepPerformsTheEntry : Prop :=
  ∀ s, s.resetPending = false → s.source = .iteration →
    (∀ e, s.ph = .emitv → tableRead s.table s.cur = some e → step s = exec (.state e) s) ∧
    (s.ph ≠ .emitv → step s = exec s.ph.instr s)

/-- A port word placed for the next step (the model's `source`, log entry 7) performs the operation it decodes to, and the
step after it is a phase again; a word that selects nothing stops by name (R80 (e), U12). -/
def Obligations.StepPerformsThePortWord : Prop :=
  ∀ s sel data, s.resetPending = false → s.source = .port sel data →
    (∀ i, decode (.port sel data) = .ok i → step s = exec i { s with source := .phase }) ∧
    (∀ f, decode (.port sel data) = .error f → step s = .fault (.badPortWord f))

/-- A row's bits that decode are what the next step performs once placed. Placing is the model's own (log entries 5 and 8), no
rule of the spec. As bare bits the rows WRV, WRP and RDIN read as the phase codes WAIT, SAMPLE and EMITP (log entry 8), so no
port operation is placed this way. -/
def Obligations.PlacedWordIsPerformed : Prop :=
  (∀ (s : State) nbits w i, decodeTableWord nbits w = some i →
    step (s.withFetchWord nbits w) = exec i (s.withFetchWord nbits w)) ∧
  decodeTableWord 8 0b100 = some .wait ∧ decodeTableWord 8 0b101 = some .sample ∧ decodeTableWord 8 0b010 = some .emitp ∧
  ∀ nbits w i, decodeTableWord nbits w = some i → i.format ≠ .port

/-! ### The operations -/

/-- R112: INIT starts the loop on a table that passes VALIDATE and takes ConfigDefect on any other, writes no port, and
nothing but INIT raises anything or leads back to INIT. That ConfigDefect is a next state is log entry 9, the record `defect`
that it leaves and no other phase touches is log entry 14. -/
def Obligations.InitStartsOrRefuses : Prop :=
  (∀ s, validate s.table = none → exec .init s = .next { s with cur := Config.start, ph := .emitv }) ∧
  (∀ s d, validate s.table = some d → exec .init s = .next { s with ph := .refused, defect := some d }) ∧
  State.reset.cur = Config.start ∧
  (∀ s s', Engine s → step s = .next s' → s'.ph ≠ .init ∧ (s.ph ≠ .init → s'.defect = s.defect))

/-- R114: EMITV writes the vehicle mask of the current entry, in every iteration, and nothing else but `PH`. -/
def Obligations.EmitvWritesTheVehicleMask : Prop :=
  ∀ s, s.cur.toNat ≤ 13 →
    ∃ e, tableRead s.table s.cur = some e ∧ exec .emitv s = .next { s with vout := e.v, ph := .emitp }

/-- R115: EMITP writes bits 3 and 1 of the pedestrian mask of the current entry and nothing else but `PH`; bits 2 and 0
are 0 afterwards. Between EMITV and EMITP the new vehicle mask stands with the old pedestrian mask. -/
def Obligations.EmitpWritesThePedestrianMask : Prop :=
  (∀ s, s.cur.toNat ≤ 13 → ∃ e t, tableRead s.table s.cur = some e ∧ exec .emitv s = .next t ∧
    t.ph = .emitp ∧ t.vout = e.v ∧ t.pout = s.pout) ∧
  ∀ s, s.cur.toNat ≤ 13 →
    ∃ e m, tableRead s.table s.cur = some e ∧ exec .emitp s = .next { s with pout := m, ph := .load } ∧
      m.getLsbD 3 = e.p.walk ∧ m.getLsbD 1 = e.p.dontWalk ∧ m.getLsbD 2 = false ∧ m.getLsbD 0 = false

/-- R131: LOAD sets the counter to the duration of the current entry, whatever it held, in no modelled time. -/
def Obligations.LoadSetsTheCounter : Prop :=
  ∀ s, s.cur.toNat ≤ 13 →
    ∃ e, tableRead s.table s.cur = some e ∧ exec .load s = .next { s with cnt := e.d, ph := .wait }

/-- R132: WAIT ends at 0 without a quantum, otherwise takes one; from `CNT` = `n` the engine takes exactly `n` steps of the
second kind and then one of the first, touching nothing else. -/
def Obligations.WaitCountsDown : Prop :=
  (∀ s, s.cnt = 0 → exec .wait s = .next { s with ph := .sample }) ∧
  (∀ s, s.cnt ≠ 0 → exec .wait s = .next { s with cnt := s.cnt - 1, t := s.t + 1 }) ∧
  (∀ s k, Engine s → s.ph = .wait → k ≤ s.cnt.toNat →
    runs k s = .next { s with cnt := BitVec.ofNat 8 (s.cnt.toNat - k), t := s.t + k }) ∧
  ∀ s, Engine s → s.ph = .wait →
    runs (s.cnt.toNat + 1) s = .next { s with cnt := 0, t := s.t + s.cnt.toNat, ph := .sample }

/-- R133: the decrement is taken only at 1 or more, so it never wraps. -/
def Obligations.CounterNeverWraps : Prop :=
  ∀ s s', exec .wait s = .next s' → s.cnt ≠ 0 → s'.cnt.toNat + 1 = s.cnt.toNat ∧ s'.cnt.toNat ≤ 254

/-- R130: LOAD and the WAIT steps after it are `wait(n)` for the `n` of the entry: `T` grows by exactly `n`, `CNT` ends at
0, nothing else changes; with `n` = 0 no quantum passes. -/
def Obligations.LoadAndWaitsAreWaitN : Prop :=
  ∀ s e, Engine s → s.ph = .load → tableRead s.table s.cur = some e →
    runs (e.d.toNat + 2) s = .next { waitN e.d s with ph := .sample } ∧
    waitN e.d s = { s with cnt := 0, t := s.t + e.d.toNat } ∧
    (e.d = 0 → runs 2 s = .next { s with cnt := 0, ph := .sample })

/-- R116: SAMPLE latches what the environment gives at this step, and moves on; no other phase reads the inputs. The next
sample comes from the script or, when it is empty, from a free draw (log entry 3); the statement holds whatever the draw
is, and whatever the counter, dead from here to the next LOAD, then holds (U11, log entry 11). -/
def Obligations.SampleLatchesTheInput : Prop :=
  (∀ s i rest, s.script = i :: rest →
    ∃ dead, exec .sample s = .next { s with
      smp := i
      ph := .advance
      cnt := dead
      script := rest
      free := s.free + 1
      lastRead := some i }) ∧
  (∀ s, s.script = [] →
    ∃ dead, exec .sample s = .next { s with
      smp := Config.freeSample s.free
      ph := .advance
      cnt := dead
      free := s.free + 2
      lastRead := some (Config.freeSample s.free) }) ∧
  ∀ s t, Engine s → s.ph ≠ .sample → step s = .next t → t.script = s.script ∧ t.lastRead = s.lastRead

/-- R117: ADVANCE goes to the state that the multiplexer selects from the current entry's eight by the latched sample, a
self-loop included; on a valid table that names a state. The latch is dead afterwards: the statement holds whatever it then
holds (log entry 2). -/
def Obligations.AdvanceTakesTheSelectedState : Prop :=
  ∀ s e, tableRead s.table s.cur = some e → e.t.length = 8 →
    ∃ n dead, e.t[s.smp.toNat]? = some n ∧ tableNext s.table s.cur s.smp = some n ∧
      exec .advance s = .next { s with cur := n, ph := .emitv, smp := dead, free := s.free + 1 } ∧
      (validate s.table = none → n.toNat ≤ 13)

/-- R118: REFUSED has no step; a refused machine without a RESET stays stopped however long it runs, so no port is ever
written; the next RESET takes it back to INIT. -/
def Obligations.RefusedHasNoStep : Prop :=
  (∀ s, exec .refused s = .fault .stuckRefused) ∧
  (∀ s k, Engine s → s.ph = .refused → runs (k + 1) s = .fault .stuckRefused) ∧
  ∀ s, s.ph = .refused → s.resetPending = true → ∃ t, step s = .next t ∧ t.ph = .init

/-- R140: WRV puts all six bits of its mask in VOUT, any of the 64, and nothing else; writing what is held changes nothing;
of the phases only EMITV performs it. The first clause: the selector is R140's, that the mask stands on six data lines is the
model's choice (log entry 8). -/
def Obligations.WrvWritesVout : Prop :=
  (∀ m, encode (.wrv m) = .port 0b100 m) ∧
  (∀ m s, exec (.wrv m) s = .next { s with vout := m }) ∧
  (∀ s, exec (.wrv s.vout) s = .next s) ∧
  (∀ s s', Engine s → step s = .next s' → s.ph ≠ .emitv → s'.vout = s.vout) ∧
  ∀ s e, tableRead s.table s.cur = some e →
    ∃ t, exec (.wrv e.v) s = .next t ∧ exec .emitv s = .next { t with ph := .emitp }

/-- R141: WRP writes bits 3 and 1 of its mask in POUT and nothing else; bits 2 and 0 of the mask are ignored and stay 0; of
the phases only EMITP performs it. The first clause: the selector is R141's, that the mask stands on the low four of six data
lines is the model's choice (log entry 8). -/
def Obligations.WrpWritesPout : Prop :=
  (∀ m : PMask, encode (.wrp m) = .port 0b101 (m.zeroExtend 6)) ∧
  (∀ m s, ∃ q, exec (.wrp m) s = .next { s with pout := q } ∧
    q.getLsbD 3 = m.getLsbD 3 ∧ q.getLsbD 1 = m.getLsbD 1 ∧ q.getLsbD 2 = false ∧ q.getLsbD 0 = false) ∧
  (∀ s s', Engine s → step s = .next s' → s.ph ≠ .emitp → s'.pout = s.pout) ∧
  ∀ s e, tableRead s.table s.cur = some e →
    ∃ t, exec (.wrp e.p.mask) s = .next t ∧ exec .emitp s = .next { t with ph := .load }

/-- R142: RDIN returns the value the environment gives (in `lastRead`, log entry 4) and changes no register, no lamp, not the
table and not T; SAMPLE latches that same value (and leaves the counter dead, log entry 11). -/
def Obligations.RdinReturnsTheInput : Prop :=
  encode .rdin = .port 0b010 0 ∧
  (∀ s i rest, s.script = i :: rest → exec .rdin s = .next { s with lastRead := some i, script := rest }) ∧
  (∀ s, s.script = [] →
    exec .rdin s = .next { s with lastRead := some (Config.freeSample s.free), free := s.free + 1 }) ∧
  ∀ s, ∃ t i dead, exec .rdin s = .next t ∧ t.lastRead = some i ∧
    exec .sample s = .next { t with smp := i, ph := .advance, cnt := dead, free := t.free + 1 }

/-- R111: the big step ITER on an entry: both masks shown, the hold, the sample, the selected state; nothing else of the
hardware. The model's own: the dead latch holds a free value (log entry 2) and so does the dead counter (log entry 11), samples
come from the script or a free draw (log entry 3), the value read is kept (log entry 4), and an entry without eight transitions
stops by name (log entry 12). The statement holds whatever the two dead registers hold. -/
def Obligations.StatePerformsOneIteration : Prop :=
  (∀ s e i rest, e.t.length = 8 → s.script = i :: rest →
    ∃ n dead count, e.t[i.toNat]? = some n ∧
      exec (.state e) s = .next { s with
        vout := e.v, pout := e.p.mask, cnt := count, t := s.t + e.d.toNat, smp := dead, cur := n, ph := .emitv
        lastRead := some i, script := rest, free := s.free + 2 }) ∧
  (∀ s e, e.t.length = 8 → s.script = [] →
    ∃ n dead count, e.t[(Config.freeSample s.free).toNat]? = some n ∧
      exec (.state e) s = .next { s with
        vout := e.v, pout := e.p.mask, cnt := count, t := s.t + e.d.toNat, smp := dead, cur := n, ph := .emitv
        lastRead := some (Config.freeSample s.free), free := s.free + 3 }) ∧
  ∀ s e, e.t.length ≠ 8 → exec (.state e) s = .fault (.missingTransition s.cur)

/-- R111 against R112 to R117 and R131, R132: the big step on an entry is exactly its `D + 6` phases. -/
def Obligations.IterationIsItsPhases : Prop :=
  ∀ s e, Engine s → s.ph = .emitv → tableRead s.table s.cur = some e → e.t.length = 8 →
    runs (e.d.toNat + 6) s = exec (.state e) s

/-- R51: the operations that read `TABLE[CUR]` stop by name where there is no entry, and so does a step that performs one of
them or would perform the entry itself; no default is returned. That the machine stops there is log entry 12. -/
def Obligations.NoEntryNoDefault : Prop :=
  ∀ s, 13 < s.cur.toNat →
    (exec .emitv s = .fault (.noEntry s.cur) ∧ exec .emitp s = .fault (.noEntry s.cur) ∧
      exec .load s = .fault (.noEntry s.cur) ∧ exec .advance s = .fault (.noEntry s.cur)) ∧
    (Engine s → s.ph = .emitv ∨ s.ph = .emitp ∨ s.ph = .load ∨ s.ph = .advance → step s = .fault (.noEntry s.cur)) ∧
    (s.resetPending = false → s.source = .iteration →
      s.ph = .emitv ∨ s.ph = .emitp ∨ s.ph = .load ∨ s.ph = .advance → step s = .fault (.noEntry s.cur))

/-- R152, R123: on a valid table no operation but REFUSED stops, whatever the state of the machine, and none is ever
refused. -/
def Obligations.OnlyRefusedStopsOnAValidTable : Prop :=
  (∀ i s, validate s.table = none → s.cur.toNat ≤ 13 → i ≠ .refused → (∀ e, i = .state e → e.t.length = 8) →
    ∃ t, exec i s = .next t) ∧
  (∀ i s r, exec i s ≠ .refused r) ∧ ∀ s r, step s ≠ .refused r

/-! ### The table -/

/-- R92, R52: NEXT is the transition list at the sample, the multiplexer's select lines are the sample's three bits, and the
flat address `s :: i` names the same identifier. -/
def Obligations.NextIsTheSelectedTransition : Prop :=
  (∀ (e : Entry) (i : Sample), e.t.length = 8 → entryNext e i = e.t[i.toNat]?) ∧
  (∀ tbl s e i, tableRead tbl s = some e → tableNext tbl s i = entryNext e i) ∧
  (∀ tbl (s : StateId) i, validate tbl = none → s.toNat ≤ 13 → ∃ n, tableNext tbl s i = some n ∧ n.toNat ≤ 13) ∧
  (∀ tbl s i, flatRead tbl (flatAddress s i) = tableNext tbl s i) ∧
  (∀ tbl (s : StateId) i, 13 < s.toNat → flatRead tbl (flatAddress s i) = none) ∧
  ∀ (s : StateId) (i : Sample), (flatAddress s i).toNat = 8 * s.toNat + i.toNat

/-- R106, R108: the check passes exactly when every list has eight entries and every target names a state; masks and
durations are not looked at. -/
def Obligations.ValidateAcceptsExactlyTheClosedTables : Prop :=
  ∀ tbl, validate tbl = none ↔
    ∀ s e, tableRead tbl s = some e → e.t.length = 8 ∧ ∀ n ∈ e.t, n.toNat ≤ 13

/-- R156, R151, R106: the defect reported is one the table has, with its code number 1 (dangling) or 2 (missing), and the first
in scan order: lower states pass, the count comes before the entries, lower inputs name states. -/
def Obligations.ValidateReportsTheFirstDefect : Prop :=
  ∀ tbl d, validate tbl = some d →
    ∃ e, tableRead tbl (BitVec.ofNat 4 d.s) = some e ∧ d.s ≤ 13 ∧
      (∀ q f, q.toNat < d.s → tableRead tbl q = some f → f.t.length = 8 ∧ ∀ n ∈ f.t, n.toNat ≤ 13) ∧
      ((d.code = .missingEntry ∧ defectNumber d.code = 2 ∧ e.t.length ≠ 8 ∧ d.i = e.t.length) ∨
       (d.code = .danglingTarget ∧ defectNumber d.code = 1 ∧ e.t.length = 8 ∧
          (∃ n, e.t[d.i]? = some n ∧ 13 < n.toNat) ∧
        ∀ j n, j < d.i → e.t[j]? = some n → n.toNat ≤ 13))

/-- R50: no step writes the table, at any time, a RESET included, whatever the step is taken from. -/
def Obligations.NoStepWritesTheTable : Prop := ∀ s s', step s = .next s' → s'.table = s.table

/-- R28, R50: the table is a parameter of the step function. The hardware without a table (`Hw`) and the table make the machine
and nothing else does; a step, and every run, is the step function of R28 on that hardware, with the table kept as it was. That
the table stands in State as well is the model's choice (log entry 5). -/
def Obligations.TableIsAParameterOfTheStep : Prop :=
  (∀ tbl h, (Hw.on tbl h).hw = h ∧ (Hw.on tbl h).table = tbl) ∧ (∀ s : State, s.hw.on s.table = s) ∧
  (∀ s, step s = mapNext (Hw.on s.table) (stepOn s.table s.hw)) ∧
  ∀ k s, runs k s = mapNext (Hw.on s.table) ((coreOn s.table).run k s.hw)

/-- R105 and R107: `TABLE_REF` satisfies everything the source says of a table (R93 to R102, read
as log entry 13 says). -/
def Obligations.ReferenceTableKeepsThePolicy : Prop := validate tableRef = none ∧ Policy tableRef rolesRef

/-- R107 (b), R178: in `TABLE_REF` no samples lead from START to SouthStartY, and every other state is reachable. -/
def Obligations.ReferenceDeadStateUnreachable : Prop :=
  (¬ Reachable tableRef 2) ∧ ∀ s : StateId, s.toNat ≤ 13 → s ≠ 2 → Reachable tableRef s

/-- R178: a state that every input leads back to is never left, whatever is sampled. -/
def Obligations.DeadStateIsNeverLeft : Prop :=
  (∀ tbl s, (∀ i, tableNext tbl s i = some s) → ∀ ins, path tbl s ins = some s) ∧
  ∀ s t, (∀ i, tableNext s.table s.cur i = some s.cur) → Engine s → s.ph ≠ .init → step s = .next t → t.cur = s.cur

/-- R181, from R96 and R97: with the pedestrian bit constantly set, the states visited from a buffer state are buffer states
and the five states of the pedestrian sequence; where buffer states show no green (glossary) and stand between walk and every
green (R98), none of the states visited has a vehicle green. The predicates are read as log entry 13 says. -/
def Obligations.PersistentPedestrianStarvesTheVehicles : Prop :=
  ∀ tbl r, PedestrianPath tbl r → PedestrianPriority tbl r →
    ∀ b ins, b ∈ r.buf → (∀ i ∈ ins, senses i .pedestrian = true) →
      ∃ s, path tbl b ins = some s ∧
        (s ∈ r.buf ∨ s = r.walk ∨ s = r.f1a ∨ s = r.f1b ∨ s = r.f2a ∨ s = r.f2b) ∧
        (BuffersDark tbl r → Buffered tbl r → ¬ GreenNs tbl s ∧ ¬ GreenEw tbl s)

/-- R98 (read as log entry 13 says), C3: where the directions take turns and no state shows both greens (R100), both of them
asking for ever are both granted again and again, whichever green the machine stands in. -/
def Obligations.BothDirectionsAreServedForEver : Prop :=
  ∀ tbl r, RoundRobin tbl r → MutualExclusion tbl →
    ∀ g, Reachable tbl g → GreenNs tbl g ∨ GreenEw tbl g →
      ∀ n, (∃ k c, n < k ∧ path tbl g (List.replicate k 0b011) = some c ∧ GreenNs tbl c) ∧
        ∃ k c, n < k ∧ path tbl g (List.replicate k 0b011) = some c ∧ GreenEw tbl c

/-! ### Reset, ConfigDefect -/

/-- R33: what reset leaves; `VOUT`, `CNT` and `SMP` are not constrained, `POUT` only on its unimplemented bits (R23). The
fields that are the model's own are the model's choice (log entries 2 to 7). -/
def Obligations.ResetState : Prop :=
  State.reset.ph = .init ∧ State.reset.cur = 0 ∧ State.reset.t = 0 ∧ PoutWf State.reset

/-- R170: a RESET is taken at any time, in any phase, a hold, a refusal and a half-done port operation included, and nothing
of the hardware's state before it survives: two machines on the same table, whatever they were doing, are the same
afterwards. That the free values and the script are equal for both is the model's own bookkeeping (log entries 1 to 3). -/
def Obligations.ResetForgetsEverything : Prop :=
  (∀ s, s.resetPending = true → ∃ t, step s = .next t ∧
    t.ph = .init ∧ t.cur = Config.start ∧ t.t = 0 ∧ PoutWf t ∧ t.table = s.table ∧ t.resetPending = false) ∧
  ∀ a b, a.resetPending = true → b.resetPending = true → a.table = b.table → a.script = b.script → a.free = b.free →
    step a = step b

/-- R157, R158: taking ConfigDefect is `PH <- REFUSED` with START still in `CUR` and no port, counter or latch touched; only a
RESET leaves it, and INIT then refuses again for the same defect. That REFUSED is left only so is R158's own inference
([derived]); the record `defect` is log entry 14. -/
def Obligations.DefectiveTableIsRefusedForEver : Prop :=
  ∀ tbl script n d, validate tbl = some d →
    runs 1 (State.resetWith tbl script n) =
      .next { State.resetWith tbl script n with ph := .refused, defect := some d } ∧
    (∀ k, runs (k + 2) (State.resetWith tbl script n) = .fault .stuckRefused) ∧
    ∀ s, s.resetPending = true → s.ph = .refused → s.table = tbl →
      ∃ t, runs 2 s = .next t ∧ t.ph = .refused ∧ t.cur = Config.start ∧ t.defect = some d

/-- R171: on a valid table the first iteration shows START's masks and holds START's duration before the first sample. -/
def Obligations.FirstIterationShowsStart : Prop :=
  ∀ tbl script n e, validate tbl = none → tableRead tbl Config.start = some e →
    ∃ s, runs (e.d.toNat + 5) (State.resetWith tbl script n) = .next s ∧
      s.ph = .sample ∧ s.cur = Config.start ∧ s.vout = e.v ∧ s.pout = e.p.mask ∧ s.t = e.d.toNat ∧
      s.script = script ∧ s.lastRead = none

/-! ### Whole-machine rules -/

/-- R110: the order of the phases. -/
def Obligations.PhasesFollowTheirOrder : Prop :=
  ∀ s t, Engine s → step s = .next t → Engine t ∧ PhaseFollows s.ph t.ph

/-- R20 to R27: each register is written by its own phases and by no other; at ADVANCE the latch and at SAMPLE the counter are
not written but dead afterwards (log entries 2 and 11). -/
def Obligations.EachRegisterHasItsWriter : Prop :=
  ∀ s t, Engine s → step s = .next t →
    (t.cur ≠ s.cur → s.ph = .init ∨ s.ph = .advance) ∧
    (t.vout ≠ s.vout → s.ph = .emitv) ∧
    (t.pout ≠ s.pout → s.ph = .emitp) ∧
    (t.smp ≠ s.smp → s.ph = .sample ∨ s.ph = .advance) ∧
    (t.cnt ≠ s.cnt → s.ph = .load ∨ s.ph = .wait ∨ s.ph = .sample) ∧
    (t.t ≠ s.t → s.ph = .wait ∧ t.t = s.t + 1) ∧
    (t.script ≠ s.script → s.ph = .sample)

/-- R120: from the end of EMITP to the next EMITV neither output register is written and `CUR` changes only at the last
step; the next EMITV comes only after the counter has reached 0. -/
def Obligations.HoldIsStable : Prop :=
  ∀ s t, Engine s → HoldPhase s.ph → step s = .next t →
    t.vout = s.vout ∧ t.pout = s.pout ∧ (s.ph ≠ .advance → t.cur = s.cur) ∧
    (s.ph = .wait → t.ph ≠ .wait → s.cnt = 0 ∧ t.t = s.t)

/-- The invariant holds right after reset, on every table. -/
def Obligations.MachineInvAtReset : Prop :=
  MachineInv State.reset ∧ ∀ tbl script n, MachineInv (State.resetWith tbl script n)

/-- Every step keeps the invariant, whatever the step is taken from, a RESET included: `CUR` names a state (R21, R94), the
hard-wired bits of `POUT` are 0 (R23), a loop runs only on a table that passed the check (R112). -/
def Obligations.StepKeepsMachineInv : Prop := ∀ s t, MachineInv s → step s = .next t → MachineInv t

/-- R119: every step keeps lamps and counter with `CUR` on a valid table, and, past the first EMITP, the lamps of EMITV and EMITP
with the state that led to `CUR`, as long as no RESET comes. `RunInv` also says what the counter holds from LOAD to SAMPLE (R131,
R132). -/
def Obligations.StepKeepsRunInv : Prop :=
  (∀ tbl script n, validate tbl = none → RunInv (State.resetWith tbl script n)) ∧
  (∀ s t, RunInv s → step s = .next t → RunInv t) ∧
  (∀ tbl script n s, validate tbl = none → runs 3 (State.resetWith tbl script n) = .next s →
    s.resetPending = false ∧ Shown s) ∧
  ∀ s t, RunInv s → s.resetPending = false → Shown s → step s = .next t → t.resetPending = false ∧ Shown t

/-- R121, R123, R135: on a valid table there is always a next step; no fault, no refusal, no end. In WAIT this rests on the
assumption that every quantum ends (R135, log entry 10). -/
def Obligations.StartedMachineNeverStops : Prop :=
  (∀ s, RunInv s → ∃ t, step s = .next t) ∧
  ∀ tbl script n k, validate tbl = none → ∃ t, runs k (State.resetWith tbl script n) = .next t

/-- R104, R119, for every valid table, every script and every draw: in LOAD, WAIT, SAMPLE and ADVANCE the lamps are those of
`CUR`, whatever was sampled. -/
def Obligations.OutputsDependOnTheStateOnly : Prop :=
  ∀ tbl script n k s, validate tbl = none → runs k (State.resetWith tbl script n) = .next s → HoldPhase s.ph →
    ∃ e, tableRead tbl s.cur = some e ∧ s.vout = e.v ∧ s.pout = e.p.mask

/-- R110, R111, R117: every step keeps `CUR` a state that some samples lead to from START, whatever the step is taken from, a
RESET included. -/
def Obligations.StepKeepsCurReachable : Prop :=
  (∀ tbl script n, Reachable tbl (State.resetWith tbl script n).cur) ∧
  ∀ s t, Reachable s.table s.cur → step s = .next t → Reachable t.table t.cur

/-- R100 (read as log entry 13 says) carried to the lamps: on a valid table with mutual exclusion, no hold ever shows both
greens, or walk with a green. -/
def Obligations.HoldsNeverShowAConflict : Prop :=
  ∀ tbl script n k s, validate tbl = none → MutualExclusion tbl →
    runs k (State.resetWith tbl script n) = .next s → HoldPhase s.ph →
    ¬ (vLit s.vout .nsGreen = true ∧ vLit s.vout .ewGreen = true) ∧
    (pLit s.pout .walk = true → vLit s.vout .nsGreen = false ∧ vLit s.vout .ewGreen = false)

/-- On `TABLE_REF`, past the first EMITP, every step keeps the lamps with the state shown or the one just left, and `CUR` is
never SouthStartY. -/
def Obligations.StepKeepsRefShown : Prop :=
  (∀ s t, RefShown s → step s = .next t → RefShown t) ∧
  ∀ script n s, runs 3 (State.resetWith tableRef script n) = .next s → RefShown s

/-- R176, on `TABLE_REF` past the first EMITP (before it R177 leaves the lamps unspecified): after every step, the mixed patterns between the two writes included, never both
greens, and walk only with both reds. -/
def Obligations.ReferenceLampsAreSafe : Prop :=
  ∀ script n k s, runs (k + 3) (State.resetWith tableRef script n) = .next s →
    ¬ (vLit s.vout .nsGreen = true ∧ vLit s.vout .ewGreen = true) ∧ (pLit s.pout .walk = true → s.vout = 0b100100) ∧
    s.cur ≠ 2

/-- R111: from reset on a valid table the machine visits `s_0 = START`, `s_(k+1) = NEXT(s_k, i_k)`, entered at
`T_k = E_0.D + ... + E_(k-1).D`, for every sequence of samples. -/
def Obligations.RunVisitsThePath : Prop :=
  ∀ tbl ins rest n, validate tbl = none →
    ∃ s q, runs (1 + stepCount tbl Config.start ins) (State.resetWith tbl (ins ++ rest) n) = .next s ∧
      path tbl Config.start ins = some q ∧
      s.ph = .emitv ∧ s.cur = q ∧ s.t = holdSum tbl Config.start ins ∧ s.script = rest

/-- R96 (read as log entry 13 says), R137, R182: on every valid table with the transitions of the pedestrian sequence, one
pedestrian cycle lasts the sum of its five durations and ends in a buffer state, whatever is sampled, scripted or drawn. That
every quantum ends is log entry 10. -/
def Obligations.PedestrianCycleLastsItsDurations : Prop :=
  ∀ s r ew e1 e2 e3 e4,
    validate s.table = none → PedestrianPath s.table r → Engine s → s.ph = .emitv → s.cur = r.walk →
    tableRead s.table r.walk = some ew → tableRead s.table r.f1a = some e1 → tableRead s.table r.f1b = some e2 →
    tableRead s.table r.f2a = some e3 → tableRead s.table r.f2b = some e4 →
    ∃ t, runs (ew.d.toNat + e1.d.toNat + e2.d.toNat + e3.d.toNat + e4.d.toNat + 30) s = .next t ∧
      t.ph = .emitv ∧ t.cur ∈ r.buf ∧ t.script = s.script.drop 5 ∧
      t.t = s.t + (ew.d.toNat + e1.d.toNat + e2.d.toNat + e3.d.toNat + e4.d.toNat) ∧
      heldMs t = heldMs s + 10 * (ew.d.toNat + e1.d.toNat + e2.d.toNat + e3.d.toNat + e4.d.toNat)

/-- R122: the state after a step is a function of the table, the registers and the sample drawn; a dead latch, a dead
counter, the model's own fields and what was read before decide nothing. -/
def Obligations.StepIsDeterminedByTheSamples : Prop :=
  ∀ a b t, Engine a → Engine b → HwAgree a b → (a.ph = .sample → envSample a = envSample b) → step a = .next t →
    ∃ u, step b = .next u ∧ HwAgree t u

/-- R174, R136, R143: outside SAMPLE the environment's inputs are neither seen nor used up: with any other inputs to come the
step is the same. -/
def Obligations.InputsAreSeenAtSampleOnly : Prop :=
  ∀ s t script, Engine s → s.ph ≠ .sample → step s = .next t →
    step { s with script := script } = .next { t with script := script } ∧ t.script = s.script
end

