-- ==== Sys2Proof/Laws/Decode.lean ====
section
/-! SUPPORT. Words and records: the packed word holds the record and nothing else, and what `POUT` keeps of a mask. -/

namespace Sys2Proof

/-- A pattern is the implemented bits of its mask. -/
@[simp] theorem PPattern.ofMask_mask (p : PPattern) : PPattern.ofMask p.mask = p := by
  obtain ⟨x, w⟩ := p
  cases x <;> cases w <;> rfl

/-- A mask whose reserved bits are 0 is the mask of its implemented bits. -/
theorem PPattern.mask_ofMask : ∀ m : PMask, m.getLsbD 0 = false → m.getLsbD 2 = false → (PPattern.ofMask m).mask = m := by
  decide

/-- The bits of a pattern's mask (30_encoding.md R72). -/
theorem PPattern.mask_bits (p : PPattern) :
    p.mask.getLsbD 3 = p.walk ∧ p.mask.getLsbD 1 = p.dontWalk ∧ p.mask.getLsbD 2 = false ∧ p.mask.getLsbD 0 = false := by
  obtain ⟨x, w⟩ := p
  cases x <;> cases w <;> decide

/-- A pattern reaches `POUT` whole (43_ports.md R141). -/
@[simp] theorem Machine.poutOf_mask (p : PPattern) : Machine.poutOf p.mask = p.mask := by
  obtain ⟨x, w⟩ := p
  cases x <;> cases w <;> rfl

/-- A record of eight transitions is what its word holds (30_encoding.md R76). -/
theorem Entry.unpack_pack (e : Entry) (h : e.hasEight = true) : Entry.unpack e.pack = e := by
  obtain ⟨v, p, d, t⟩ := e
  simp only [Entry.hasEight, beq_iff_eq] at h
  match t, h with
  | [_, _, _, _, _, _, _, _], _ =>
    simp only [Entry.pack, Entry.packTargets, Entry.unpack, Entry.targetField, Entry.mk.injEq, List.cons.injEq, and_true]
    refine ⟨?_, (congrArg PPattern.ofMask (?_ : _ = p.mask)).trans p.ofMask_mask, ?_, ?_, ?_, ?_, ?_, ?_, ?_, ?_, ?_⟩ <;>
    · apply BitVec.eq_of_toNat_eq
      simp only [BitVec.extractLsb'_toNat, BitVec.toNat_ofNat, Nat.shiftRight_eq_div_pow]
      omega

/-- The word of a record has its reserved bits 0 (30_encoding.md R76). -/
theorem Entry.pack_reservedZero (e : Entry) : Entry.reservedZero e.pack = true := by
  have hp : e.pack.extractLsb' 6 4 = e.p.mask := by
    apply BitVec.eq_of_toNat_eq
    simp only [Entry.pack, BitVec.extractLsb'_toNat, BitVec.toNat_ofNat, Nat.shiftRight_eq_div_pow]
    omega
  have h0 := congrArg (fun m : BitVec 4 => m.getLsbD 0) hp
  have h2 := congrArg (fun m : BitVec 4 => m.getLsbD 2) hp
  simp only [BitVec.getLsbD_extractLsb', e.p.mask_bits] at h0 h2
  simpa [Entry.reservedZero] using ⟨h0, h2⟩

/-- A word whose reserved bits are 0 is the word of the record it holds (30_encoding.md R76). -/
theorem Entry.pack_unpack (w : BitVec 50) (h : Entry.reservedZero w = true) : (Entry.unpack w).pack = w := by
  simp only [Entry.reservedZero, Bool.and_eq_true, Bool.not_eq_true'] at h
  have hm : (PPattern.ofMask (w.extractLsb' 6 4)).mask = w.extractLsb' 6 4 :=
    PPattern.mask_ofMask _ (by simpa using h.1) (by simpa using h.2)
  apply BitVec.eq_of_toNat_eq
  simp only [Entry.pack, Entry.packTargets, Entry.unpack, Entry.targetField, hm, BitVec.extractLsb'_toNat,
    BitVec.toNat_ofNat, Nat.shiftRight_eq_div_pow]
  have := w.isLt
  omega

/-- Bits 3 and 1 of a mask reach `POUT`, bits 2 and 0 do not (43_ports.md R141). -/
theorem Machine.poutOf_bits : ∀ m : PMask,
    (Machine.poutOf m).getLsbD 3 = m.getLsbD 3 ∧ (Machine.poutOf m).getLsbD 1 = m.getLsbD 1 ∧
    (Machine.poutOf m).getLsbD 2 = false ∧ (Machine.poutOf m).getLsbD 0 = false := by
  decide

/-- What a write leaves in `POUT` has bits 2 and 0 clear (10_state.md R23). -/
theorem Machine.poutOf_reserved : ∀ m : PMask, Machine.poutOf m &&& 0b0101 = 0 := by
  decide

end Sys2Proof
end

