-- ==== Sys2Proof/Laws/State.lean ====
section
/-! SUPPORT. One lemma per field per update: what each shared operation leaves in each field. -/

namespace Sys2Proof.Machine

variable (s : State)

@[simp] theorem goTo_ph (p : Phase) : (goTo p s).ph = p := rfl
@[simp] theorem goTo_cur (p : Phase) : (goTo p s).cur = s.cur := rfl
@[simp] theorem goTo_vout (p : Phase) : (goTo p s).vout = s.vout := rfl
@[simp] theorem goTo_pout (p : Phase) : (goTo p s).pout = s.pout := rfl
@[simp] theorem goTo_smp (p : Phase) : (goTo p s).smp = s.smp := rfl
@[simp] theorem goTo_cnt (p : Phase) : (goTo p s).cnt = s.cnt := rfl
@[simp] theorem goTo_t (p : Phase) : (goTo p s).t = s.t := rfl
@[simp] theorem goTo_table (p : Phase) : (goTo p s).table = s.table := rfl
@[simp] theorem goTo_defect (p : Phase) : (goTo p s).defect = s.defect := rfl
@[simp] theorem goTo_lastRead (p : Phase) : (goTo p s).lastRead = s.lastRead := rfl
@[simp] theorem goTo_script (p : Phase) : (goTo p s).script = s.script := rfl
@[simp] theorem goTo_free (p : Phase) : (goTo p s).free = s.free := rfl
@[simp] theorem goTo_resetPending (p : Phase) : (goTo p s).resetPending = s.resetPending := rfl
@[simp] theorem goTo_source (p : Phase) : (goTo p s).source = s.source := rfl

@[simp] theorem portWriteVout_ph (m : VMask) : (portWriteVout m s).ph = s.ph := rfl
@[simp] theorem portWriteVout_cur (m : VMask) : (portWriteVout m s).cur = s.cur := rfl
@[simp] theorem portWriteVout_vout (m : VMask) : (portWriteVout m s).vout = m := rfl
@[simp] theorem portWriteVout_pout (m : VMask) : (portWriteVout m s).pout = s.pout := rfl
@[simp] theorem portWriteVout_smp (m : VMask) : (portWriteVout m s).smp = s.smp := rfl
@[simp] theorem portWriteVout_cnt (m : VMask) : (portWriteVout m s).cnt = s.cnt := rfl
@[simp] theorem portWriteVout_t (m : VMask) : (portWriteVout m s).t = s.t := rfl
@[simp] theorem portWriteVout_table (m : VMask) : (portWriteVout m s).table = s.table := rfl
@[simp] theorem portWriteVout_defect (m : VMask) : (portWriteVout m s).defect = s.defect := rfl
@[simp] theorem portWriteVout_lastRead (m : VMask) : (portWriteVout m s).lastRead = s.lastRead := rfl
@[simp] theorem portWriteVout_script (m : VMask) : (portWriteVout m s).script = s.script := rfl
@[simp] theorem portWriteVout_free (m : VMask) : (portWriteVout m s).free = s.free := rfl
@[simp] theorem portWriteVout_resetPending (m : VMask) : (portWriteVout m s).resetPending = s.resetPending := rfl
@[simp] theorem portWriteVout_source (m : VMask) : (portWriteVout m s).source = s.source := rfl

@[simp] theorem portWritePout_ph (m : PMask) : (portWritePout m s).ph = s.ph := rfl
@[simp] theorem portWritePout_cur (m : PMask) : (portWritePout m s).cur = s.cur := rfl
@[simp] theorem portWritePout_vout (m : PMask) : (portWritePout m s).vout = s.vout := rfl
@[simp] theorem portWritePout_pout (m : PMask) : (portWritePout m s).pout = poutOf m := rfl
@[simp] theorem portWritePout_smp (m : PMask) : (portWritePout m s).smp = s.smp := rfl
@[simp] theorem portWritePout_cnt (m : PMask) : (portWritePout m s).cnt = s.cnt := rfl
@[simp] theorem portWritePout_t (m : PMask) : (portWritePout m s).t = s.t := rfl
@[simp] theorem portWritePout_table (m : PMask) : (portWritePout m s).table = s.table := rfl
@[simp] theorem portWritePout_defect (m : PMask) : (portWritePout m s).defect = s.defect := rfl
@[simp] theorem portWritePout_lastRead (m : PMask) : (portWritePout m s).lastRead = s.lastRead := rfl
@[simp] theorem portWritePout_script (m : PMask) : (portWritePout m s).script = s.script := rfl
@[simp] theorem portWritePout_free (m : PMask) : (portWritePout m s).free = s.free := rfl
@[simp] theorem portWritePout_resetPending (m : PMask) : (portWritePout m s).resetPending = s.resetPending := rfl
@[simp] theorem portWritePout_source (m : PMask) : (portWritePout m s).source = s.source := rfl

@[simp] theorem dropSample_ph : (dropSample s).ph = s.ph := rfl
@[simp] theorem dropSample_cur : (dropSample s).cur = s.cur := rfl
@[simp] theorem dropSample_vout : (dropSample s).vout = s.vout := rfl
@[simp] theorem dropSample_pout : (dropSample s).pout = s.pout := rfl
@[simp] theorem dropSample_smp : (dropSample s).smp = Config.freeSmp s.free := rfl
@[simp] theorem dropSample_cnt : (dropSample s).cnt = s.cnt := rfl
@[simp] theorem dropSample_t : (dropSample s).t = s.t := rfl
@[simp] theorem dropSample_table : (dropSample s).table = s.table := rfl
@[simp] theorem dropSample_defect : (dropSample s).defect = s.defect := rfl
@[simp] theorem dropSample_lastRead : (dropSample s).lastRead = s.lastRead := rfl
@[simp] theorem dropSample_script : (dropSample s).script = s.script := rfl
@[simp] theorem dropSample_free : (dropSample s).free = s.free + 1 := rfl
@[simp] theorem dropSample_resetPending : (dropSample s).resetPending = s.resetPending := rfl
@[simp] theorem dropSample_source : (dropSample s).source = s.source := rfl

@[simp] theorem dropCount_ph : (dropCount s).ph = s.ph := rfl
@[simp] theorem dropCount_cur : (dropCount s).cur = s.cur := rfl
@[simp] theorem dropCount_vout : (dropCount s).vout = s.vout := rfl
@[simp] theorem dropCount_pout : (dropCount s).pout = s.pout := rfl
@[simp] theorem dropCount_smp : (dropCount s).smp = s.smp := rfl
@[simp] theorem dropCount_cnt : (dropCount s).cnt = Config.freeCnt s.free := rfl
@[simp] theorem dropCount_t : (dropCount s).t = s.t := rfl
@[simp] theorem dropCount_table : (dropCount s).table = s.table := rfl
@[simp] theorem dropCount_defect : (dropCount s).defect = s.defect := rfl
@[simp] theorem dropCount_lastRead : (dropCount s).lastRead = s.lastRead := rfl
@[simp] theorem dropCount_script : (dropCount s).script = s.script := rfl
@[simp] theorem dropCount_free : (dropCount s).free = s.free + 1 := rfl
@[simp] theorem dropCount_resetPending : (dropCount s).resetPending = s.resetPending := rfl
@[simp] theorem dropCount_source : (dropCount s).source = s.source := rfl

@[simp] theorem tick_ph : (tick s).ph = s.ph := rfl
@[simp] theorem tick_cur : (tick s).cur = s.cur := rfl
@[simp] theorem tick_vout : (tick s).vout = s.vout := rfl
@[simp] theorem tick_pout : (tick s).pout = s.pout := rfl
@[simp] theorem tick_smp : (tick s).smp = s.smp := rfl
@[simp] theorem tick_cnt : (tick s).cnt = cntDown s.cnt := rfl
@[simp] theorem tick_t : (tick s).t = s.t + 1 := rfl
@[simp] theorem tick_table : (tick s).table = s.table := rfl
@[simp] theorem tick_defect : (tick s).defect = s.defect := rfl
@[simp] theorem tick_lastRead : (tick s).lastRead = s.lastRead := rfl
@[simp] theorem tick_script : (tick s).script = s.script := rfl
@[simp] theorem tick_free : (tick s).free = s.free := rfl
@[simp] theorem tick_resetPending : (tick s).resetPending = s.resetPending := rfl
@[simp] theorem tick_source : (tick s).source = s.source := rfl

@[simp] theorem waitN_ph (n : Quanta) : (waitN n s).ph = s.ph := rfl
@[simp] theorem waitN_cur (n : Quanta) : (waitN n s).cur = s.cur := rfl
@[simp] theorem waitN_vout (n : Quanta) : (waitN n s).vout = s.vout := rfl
@[simp] theorem waitN_pout (n : Quanta) : (waitN n s).pout = s.pout := rfl
@[simp] theorem waitN_smp (n : Quanta) : (waitN n s).smp = s.smp := rfl
@[simp] theorem waitN_cnt (n : Quanta) : (waitN n s).cnt = 0 := rfl
@[simp] theorem waitN_t (n : Quanta) : (waitN n s).t = s.t + n.toNat := rfl
@[simp] theorem waitN_table (n : Quanta) : (waitN n s).table = s.table := rfl
@[simp] theorem waitN_defect (n : Quanta) : (waitN n s).defect = s.defect := rfl
@[simp] theorem waitN_lastRead (n : Quanta) : (waitN n s).lastRead = s.lastRead := rfl
@[simp] theorem waitN_script (n : Quanta) : (waitN n s).script = s.script := rfl
@[simp] theorem waitN_free (n : Quanta) : (waitN n s).free = s.free := rfl
@[simp] theorem waitN_resetPending (n : Quanta) : (waitN n s).resetPending = s.resetPending := rfl
@[simp] theorem waitN_source (n : Quanta) : (waitN n s).source = s.source := rfl

@[simp] theorem raiseConfigDefect_ph (d : Defect) : (raiseConfigDefect d s).ph = .refused := rfl
@[simp] theorem raiseConfigDefect_cur (d : Defect) : (raiseConfigDefect d s).cur = s.cur := rfl
@[simp] theorem raiseConfigDefect_vout (d : Defect) : (raiseConfigDefect d s).vout = s.vout := rfl
@[simp] theorem raiseConfigDefect_pout (d : Defect) : (raiseConfigDefect d s).pout = s.pout := rfl
@[simp] theorem raiseConfigDefect_smp (d : Defect) : (raiseConfigDefect d s).smp = s.smp := rfl
@[simp] theorem raiseConfigDefect_cnt (d : Defect) : (raiseConfigDefect d s).cnt = s.cnt := rfl
@[simp] theorem raiseConfigDefect_t (d : Defect) : (raiseConfigDefect d s).t = s.t := rfl
@[simp] theorem raiseConfigDefect_table (d : Defect) : (raiseConfigDefect d s).table = s.table := rfl
@[simp] theorem raiseConfigDefect_defect (d : Defect) : (raiseConfigDefect d s).defect = some d := rfl
@[simp] theorem raiseConfigDefect_lastRead (d : Defect) : (raiseConfigDefect d s).lastRead = s.lastRead := rfl
@[simp] theorem raiseConfigDefect_script (d : Defect) : (raiseConfigDefect d s).script = s.script := rfl
@[simp] theorem raiseConfigDefect_free (d : Defect) : (raiseConfigDefect d s).free = s.free := rfl
@[simp] theorem raiseConfigDefect_resetPending (d : Defect) : (raiseConfigDefect d s).resetPending = s.resetPending := rfl
@[simp] theorem raiseConfigDefect_source (d : Defect) : (raiseConfigDefect d s).source = s.source := rfl

@[simp] theorem resetEvent_ph : (resetEvent s).ph = .init := rfl
@[simp] theorem resetEvent_cur : (resetEvent s).cur = Config.start := rfl
@[simp] theorem resetEvent_vout : (resetEvent s).vout = Config.freeVout s.free := rfl
@[simp] theorem resetEvent_pout : (resetEvent s).pout = poutOf (Config.freePout s.free) := rfl
@[simp] theorem resetEvent_smp : (resetEvent s).smp = Config.freeSmp s.free := rfl
@[simp] theorem resetEvent_cnt : (resetEvent s).cnt = Config.freeCnt s.free := rfl
@[simp] theorem resetEvent_t : (resetEvent s).t = 0 := rfl
@[simp] theorem resetEvent_table : (resetEvent s).table = s.table := rfl
@[simp] theorem resetEvent_defect : (resetEvent s).defect = none := rfl
@[simp] theorem resetEvent_lastRead : (resetEvent s).lastRead = none := rfl
@[simp] theorem resetEvent_script : (resetEvent s).script = s.script := rfl
@[simp] theorem resetEvent_free : (resetEvent s).free = s.free + 1 := rfl
@[simp] theorem resetEvent_resetPending : (resetEvent s).resetPending = false := rfl
@[simp] theorem resetEvent_source : (resetEvent s).source = .phase := rfl

@[simp] theorem portReadIn_ph : (portReadIn s).ph = s.ph := by unfold portReadIn; split <;> rfl
@[simp] theorem portReadIn_cur : (portReadIn s).cur = s.cur := by unfold portReadIn; split <;> rfl
@[simp] theorem portReadIn_vout : (portReadIn s).vout = s.vout := by unfold portReadIn; split <;> rfl
@[simp] theorem portReadIn_pout : (portReadIn s).pout = s.pout := by unfold portReadIn; split <;> rfl
@[simp] theorem portReadIn_smp : (portReadIn s).smp = s.smp := by unfold portReadIn; split <;> rfl
@[simp] theorem portReadIn_cnt : (portReadIn s).cnt = s.cnt := by unfold portReadIn; split <;> rfl
@[simp] theorem portReadIn_t : (portReadIn s).t = s.t := by unfold portReadIn; split <;> rfl
@[simp] theorem portReadIn_table : (portReadIn s).table = s.table := by unfold portReadIn; split <;> rfl
@[simp] theorem portReadIn_defect : (portReadIn s).defect = s.defect := by unfold portReadIn; split <;> rfl
@[simp] theorem portReadIn_resetPending : (portReadIn s).resetPending = s.resetPending := by unfold portReadIn; split <;> rfl
@[simp] theorem portReadIn_source : (portReadIn s).source = s.source := by unfold portReadIn; split <;> rfl
@[simp] theorem portReadIn_lastRead : (portReadIn s).lastRead = some (envSample s) := by
  unfold portReadIn envSample; split <;> rfl

/-- A read takes the head of the script and leaves the counter of free values alone. -/
theorem portReadIn_scripted (i : Sample) (rest : List Sample) (h : s.script = i :: rest) :
    portReadIn s = { s with lastRead := some i, script := rest } ∧ envSample s = i := by
  simp [portReadIn, envSample, h]

/-- A read with nothing scripted is a free draw. -/
theorem portReadIn_drawn (h : s.script = []) :
    portReadIn s = { s with lastRead := some (Config.freeSample s.free), free := s.free + 1 } ∧
      envSample s = Config.freeSample s.free := by
  simp [portReadIn, envSample, h]

end Sys2Proof.Machine
end

