-- ==== Sys2Proof/Laws/Table.lean ====
section
/-! SUPPORT. What the table operations can answer. -/

namespace Sys2Proof.Machine

/-- GET is total on the 14 identifiers and answers nowhere else. -/
theorem tableRead_isSome_iff (tbl : Table) (s : StateId) : (tableRead tbl s).isSome = true ↔ s.toNat ≤ 13 := by
  have h : ∀ n : Fin 16, (tableRead tbl (BitVec.ofFin (w := 4) n)).isSome = true ↔ (BitVec.ofFin (w := 4) n).toNat ≤ 13 := by
    intro n; fin_cases n <;> simp [tableRead]
  exact h s.toFin

theorem tableRead_some_of_le (tbl : Table) (s : StateId) (h : s.toNat ≤ 13) : ∃ e, tableRead tbl s = some e :=
  Option.isSome_iff_exists.mp ((tableRead_isSome_iff tbl s).mpr h)

theorem tableRead_none_of_lt (tbl : Table) (s : StateId) (h : 13 < s.toNat) : tableRead tbl s = none := by
  have := mt (tableRead_isSome_iff tbl s).mp (by omega)
  simpa using this

theorem le_of_tableRead_some {tbl : Table} {s : StateId} {e : Entry} (h : tableRead tbl s = some e) : s.toNat ≤ 13 :=
  (tableRead_isSome_iff tbl s).mp (by simp [h])

/-- GET is the list of entries at the identifier. -/
theorem tableRead_eq_getElem? (tbl : Table) (s : StateId) : tableRead tbl s = (tableEntries tbl)[s.toNat]? := by
  have h : ∀ n : Fin 16, tableRead tbl (BitVec.ofFin (w := 4) n) = (tableEntries tbl)[(BitVec.ofFin (w := 4) n).toNat]? := by
    intro n; fin_cases n <;> rfl
  exact h s.toFin

/-- An entry put in a named state's slot is the one read there. -/
theorem tableRead_tablePut (tbl : Table) (s : StateId) (e : Entry) (h : s.toNat ≤ 13) :
    tableRead (tablePut tbl s e) s = some e := by
  have k : ∀ n : Fin 16, (BitVec.ofFin (w := 4) n).toNat ≤ 13 →
      tableRead (tablePut tbl (BitVec.ofFin (w := 4) n) e) (BitVec.ofFin (w := 4) n) = some e := by
    intro n; fin_cases n <;> simp [tableRead, tablePut]
  exact k s.toFin h

/-- The multiplexer on an entry of eight: the transition at the sample. -/
theorem entryNext_eq_getElem? (e : Entry) (i : Sample) (h : e.t.length = 8) : entryNext e i = e.t[i.toNat]? := by
  obtain ⟨v, p, d, t⟩ := e
  match t, h with
  | [t0, t1, t2, t3, t4, t5, t6, t7], _ =>
    have k : ∀ n : Fin 8, entryNext ⟨v, p, d, [t0, t1, t2, t3, t4, t5, t6, t7]⟩ (BitVec.ofFin (w := 3) n) =
        [t0, t1, t2, t3, t4, t5, t6, t7][(BitVec.ofFin (w := 3) n).toNat]? := by
      intro n; fin_cases n <;> rfl
    exact k i.toFin

/-- There is a decoder exactly when the entry has eight transitions. -/
theorem entryNext_isSome_iff (e : Entry) (i : Sample) : (entryNext e i).isSome = true ↔ e.t.length = 8 := by
  constructor
  · intro h
    unfold entryNext at h
    split at h
    · simp_all
    · simp at h
  · intro h
    rw [entryNext_eq_getElem? e i h]
    simp [h]
    exact i.isLt

/-- What the decoder passes on is one of the entry's transitions. -/
theorem entryNext_mem {e : Entry} {i : Sample} {n : StateId} (h : entryNext e i = some n) : n ∈ e.t := by
  have h8 := (entryNext_isSome_iff e i).mp (by simp [h])
  rw [entryNext_eq_getElem? e i h8] at h
  exact List.mem_of_getElem? h

/-- A scan of targets finds nothing exactly when all of them name states. -/
theorem scanTargets_eq_none_iff (s : Nat) (i : Nat) (l : List StateId) :
    scanTargets s i l = none ↔ ∀ n ∈ l, n.toNat ≤ 13 := by
  induction l generalizing i with
  | nil => simp [scanTargets]
  | cons n rest ih =>
    by_cases h : 13 < n.toNat
    · simp [scanTargets, h]
    · simp [scanTargets, h, ih]
      omega

/-- A scan of entries finds nothing exactly when every entry passes. -/
theorem checkEntry_eq_none_iff (s : Nat) (e : Entry) :
    checkEntry s e = none ↔ e.t.length = 8 ∧ ∀ n ∈ e.t, n.toNat ≤ 13 := by
  by_cases h : e.t.length = 8 <;> simp [checkEntry, h, scanTargets_eq_none_iff]

end Sys2Proof.Machine
end

