-- ==== Sys2Proof/Laws/Exec.lean ====
section
/-! SUPPORT. What each operation can answer: one inversion lemma per operation that reads the table. -/

namespace Sys2Proof.Machine

variable {s s' : State}

theorem execInit_cases (h : execInit s = .next s') :
    (validate s.table = none ∧ s' = { s with cur := Config.start, ph := .emitv }) ∨
    ∃ d, validate s.table = some d ∧ s' = raiseConfigDefect d s := by
  unfold execInit at h
  cases hv : validate s.table with
  | none => left; simp_all
  | some d => right; refine ⟨d, rfl, ?_⟩; simp_all

theorem execEmitv_cases (h : execEmitv s = .next s') :
    ∃ e, tableRead s.table s.cur = some e ∧ s' = goTo .emitp (portWriteVout e.v s) := by
  unfold execEmitv at h
  split at h
  · next e he => exact ⟨e, he, by simpa using h.symm⟩
  · cases h

theorem execEmitp_cases (h : execEmitp s = .next s') :
    ∃ e, tableRead s.table s.cur = some e ∧ s' = goTo .load (portWritePout e.p.mask s) := by
  unfold execEmitp at h
  split at h
  · next e he => exact ⟨e, he, by simpa using h.symm⟩
  · cases h

theorem execLoad_cases (h : execLoad s = .next s') :
    ∃ e, tableRead s.table s.cur = some e ∧ s' = goTo .wait { s with cnt := countOf e.d } := by
  unfold execLoad at h
  split at h
  · next e he => exact ⟨e, he, by simpa using h.symm⟩
  · cases h

theorem execWait_cases (h : execWait s = .next s') :
    (s.cnt = 0 ∧ s' = goTo .sample s) ∨ (s.cnt ≠ 0 ∧ s' = tick s) := by
  unfold execWait cntIsZero at h
  by_cases hc : s.cnt = 0
  · left; simp_all
  · right; simp_all

theorem execWait_of_zero (h : s.cnt = 0) : execWait s = .next (goTo .sample s) := by
  simp [execWait, cntIsZero, h]

theorem execWait_of_ne_zero (h : s.cnt ≠ 0) : execWait s = .next (tick s) := by
  have hb : cntIsZero s.cnt = false := by simpa [cntIsZero] using h
  simp [execWait, hb]

theorem execSample_cases (h : execSample s = .next s') :
    s' = goTo .advance { dropCount (portReadIn s) with smp := envSample s } := by
  simpa [execSample] using h.symm

theorem execAdvance_cases (h : execAdvance s = .next s') :
    ∃ e n, tableRead s.table s.cur = some e ∧ entryNext e s.smp = some n ∧
      s' = goTo .emitv (dropSample { s with cur := n }) := by
  unfold execAdvance at h
  split at h
  · next e he =>
    split at h
    · next n hn => exact ⟨e, n, he, hn, by simpa using h.symm⟩
    · cases h
  · cases h

theorem execState_cases {e : Entry} (h : execState e s = .next s') :
    ∃ n, entryNext e (envSample s) = some n ∧
      s' = goTo .emitv (dropSample { dropCount (portReadIn (showAndHold e s)) with cur := n }) := by
  unfold execState at h
  split at h
  · next n hn => exact ⟨n, hn, by simpa using h.symm⟩
  · cases h

end Sys2Proof.Machine
end

