-- ==== Sys2Proof/Laws/PerInstr.lean ====
section
/-! SUPPORT. Families of statements with one lemma per constructor of `Instr`. -/

namespace Sys2Proof.Laws.Place

/-- The code word of an operation stands in the place its format names (30_encoding.md R79). -/
def Statement (i : Instr) : Prop := (encode i).format = i.format

theorem init : Statement .init := rfl
theorem emitv : Statement .emitv := rfl
theorem emitp : Statement .emitp := rfl
theorem load : Statement .load := rfl
theorem wait : Statement .wait := rfl
theorem sample : Statement .sample := rfl
theorem advance : Statement .advance := rfl
theorem refused : Statement .refused := rfl
theorem wrv (m : VMask) : Statement (.wrv m) := rfl
theorem wrp (m : PMask) : Statement (.wrp m) := rfl
theorem rdin : Statement .rdin := rfl
theorem state (e : Entry) : Statement (.state e) := rfl

end Sys2Proof.Laws.Place
end

