-- ==== Sys2Proof/Laws/Step.lean ====
section
/-! SUPPORT. What a step performs, and runs taken apart. -/

namespace Sys2Proof.Machine

@[simp] theorem Phase.ofCode_code (p : Phase) : Phase.ofCode p.code = p := by cases p <;> rfl

/-- The engine's step is its phase. -/
theorem step_of_engine {s : State} (h : Engine s) : step s = exec s.ph.instr s := by
  obtain ⟨hr, hs⟩ := h
  simp [step, fetch, retireSource, hr, hs]

@[simp] theorem runs_zero (s : State) : runs 0 s = .next s := rfl

theorem coreRun_succ_of_next (M : Host.Core) {s s' : M.State} (k : Nat) (h : M.step s = .next s') :
    M.run (k + 1) s = M.run k s' := by
  rw [Host.Core.run, h]

theorem coreRun_succ_of_fault (M : Host.Core) {s : M.State} {f : M.Fault} (k : Nat) (h : M.step s = .fault f) :
    M.run (k + 1) s = .fault f := by
  rw [Host.Core.run, h]

theorem coreRun_succ_of_refused (M : Host.Core) {s : M.State} {r : M.Refusal} (k : Nat) (h : M.step s = .refused r) :
    M.run (k + 1) s = .refused r := by
  rw [Host.Core.run, h]

theorem runs_succ_of_next {s s' : State} (k : Nat) (h : step s = .next s') : runs (k + 1) s = runs k s' :=
  coreRun_succ_of_next Sys2Proof.core k h

theorem runs_succ_of_fault {s : State} {f : Fault} (k : Nat) (h : step s = .fault f) : runs (k + 1) s = .fault f :=
  coreRun_succ_of_fault Sys2Proof.core k h

theorem runs_succ_of_refused {s : State} {r : Refusal} (k : Nat) (h : step s = .refused r) :
    runs (k + 1) s = .refused r :=
  coreRun_succ_of_refused Sys2Proof.core k h

/-- A run of `j + k` steps is a run of `k` after one of `j`. -/
theorem runs_add {s s' : State} {j : Nat} (k : Nat) (h : runs j s = .next s') : runs (j + k) s = runs k s' := by
  induction j generalizing s with
  | zero =>
    simp only [runs_zero, Host.Outcome.next.injEq] at h
    simp [h]
  | succ j ih =>
    rw [show j + 1 + k = (j + k) + 1 by omega]
    cases hs : step s with
    | next u =>
      rw [runs_succ_of_next j hs] at h
      rw [runs_succ_of_next (j + k) hs]
      exact ih h
    | fault f => rw [runs_succ_of_fault j hs] at h; cases h
    | refused r => rw [runs_succ_of_refused j hs] at h; cases h

/-- The one induction over runs: what every step keeps, every run keeps. -/
theorem runs_keep {P : State → Prop} (hstep : ∀ s t, P s → step s = .next t → P t) :
    ∀ k s t, P s → runs k s = .next t → P t := by
  intro k
  induction k with
  | zero =>
    intro s t h hr
    rw [runs_zero] at hr
    cases hr
    exact h
  | succ k ih =>
    intro s t h hr
    cases hs : step s with
    | next u =>
      rw [runs_succ_of_next k hs] at hr
      exact ih u t (hstep s u h hs) hr
    | fault f => rw [runs_succ_of_fault k hs] at hr; cases hr
    | refused r => rw [runs_succ_of_refused k hs] at hr; cases hr

/-- Every way a step can have been chosen. -/
theorem fetch_cases {s : State} {i : Instr} (h : fetch s = .ok i) :
    (s.source = .phase ∧ i = s.ph.instr) ∨
    (s.source = .iteration ∧ s.ph = .emitv ∧ ∃ e, tableRead s.table s.cur = some e ∧ i = .state e) ∨
    (s.source = .iteration ∧ s.ph ≠ .emitv ∧ i = s.ph.instr) ∨
    ∃ sel data, s.source = .port sel data ∧ decode (.port sel data) = .ok i := by
  unfold fetch at h
  split at h
  · next hs => left; simp_all
  · next hs =>
    split at h
    · next hp =>
      split at h
      · next e he => right; left; exact ⟨hs, hp, e, he, by simpa using h.symm⟩
      · cases h
    · next hp =>
      right; right; left
      exact ⟨hs, by simpa using hp, by simpa using h.symm⟩
  · next sel data hs =>
    split at h
    · next j hj => cases h; exact .inr (.inr (.inr ⟨sel, data, hs, hj⟩))
    · cases h

@[simp] theorem retireSource_of_phase {s : State} (h : s.source = .phase) : retireSource s = s := by
  simp [retireSource, h]

@[simp] theorem retireSource_of_iteration {s : State} (h : s.source = .iteration) : retireSource s = s := by
  simp [retireSource, h]

theorem retireSource_of_port {s : State} {sel : BitVec 3} {data : BitVec 6} (h : s.source = .port sel data) :
    retireSource s = { s with source := .phase } := by
  simp [retireSource, h]

/-- Every way a step can answer a next state. -/
theorem step_next_cases {s t : State} (h : step s = .next t) :
    (s.resetPending = true ∧ t = resetEvent s) ∨
    (s.resetPending = false ∧ ∃ i, fetch s = .ok i ∧ exec i (retireSource s) = .next t) := by
  unfold step at h
  split at h
  · next hr => left; exact ⟨hr, by simpa using h.symm⟩
  · next hr =>
    right
    refine ⟨by simpa using hr, ?_⟩
    split at h
    · next i hi => exact ⟨i, hi, h⟩
    · cases h

/-- Every way the engine's own step can answer a next state: one phase, and never REFUSED. -/
theorem engine_step_cases {s t : State} (h : Engine s) (hs : step s = .next t) :
    (s.ph = .init ∧ execInit s = .next t) ∨ (s.ph = .emitv ∧ execEmitv s = .next t) ∨
    (s.ph = .emitp ∧ execEmitp s = .next t) ∨ (s.ph = .load ∧ execLoad s = .next t) ∨
    (s.ph = .wait ∧ execWait s = .next t) ∨ (s.ph = .sample ∧ execSample s = .next t) ∨
    (s.ph = .advance ∧ execAdvance s = .next t) := by
  rw [step_of_engine h] at hs
  cases hp : s.ph <;> rw [hp] at hs <;> simp only [Phase.instr, exec] at hs
  case refused => simp [execRefused] at hs
  all_goals simpa using hs

end Sys2Proof.Machine
end

