-- ==== Sys2Proof/Laws/TableParam.lean ====
section
/-! SUPPORT. The small lemmas of the step function that takes the table as its parameter. -/

namespace Sys2Proof.Machine

@[simp] theorem mapNext_next {A B : Type} (f : A → B) (a : A) : mapNext f (.next a) = .next (f a) := rfl
@[simp] theorem mapNext_fault {A B : Type} (f : A → B) (e : Fault) : mapNext f (.fault e) = .fault e := rfl
@[simp] theorem mapNext_refused {A B : Type} (f : A → B) (r : Refusal) : mapNext f (.refused r) = .refused r := rfl

@[simp] theorem Hw.on_table (tbl : Table) (h : Hw) : (h.on tbl).table = tbl := rfl
@[simp] theorem Hw.on_ph (tbl : Table) (h : Hw) : (h.on tbl).ph = h.ph := rfl
@[simp] theorem Hw.on_cur (tbl : Table) (h : Hw) : (h.on tbl).cur = h.cur := rfl
@[simp] theorem Hw.on_source (tbl : Table) (h : Hw) : (h.on tbl).source = h.source := rfl
@[simp] theorem Hw.on_resetPending (tbl : Table) (h : Hw) : (h.on tbl).resetPending = h.resetPending := rfl

/-- The hardware right after reset is the same on every table. -/
theorem resetWith_hw (tbl : Table) : (State.resetWith tbl [] 0).hw = Hw.reset := rfl

end Sys2Proof.Machine
end

