-- ==== Sys2Proof/Machine/Text.lean ====
section
/-! DEFINITION. The textual forms of the spec's listings (30_encoding.md R82, D27). The hardware has none. -/

namespace Sys2Proof.Machine

/-- A binary literal of `n` digits, the leftmost digit the highest bit (00_scope.md R9). -/
def binLiteral (n : Nat) (x : Nat) : String :=
  "0b" ++ String.ofList ((List.range n).reverse.map fun k => if x.testBit k then '1' else '0')

/-- A state's name, or its number where the table has no name for it. -/
def nameText (names : StateId → Option String) (s : StateId) : String :=
  match names s with
  | some n => n
  | none => toString s.toNat

/-- A `STATE` line (R82). -/
def stateLine (names : StateId → Option String) (s : StateId) (e : Entry) : String :=
  "STATE " ++ toString s.toNat ++ " " ++ nameText names s ++ " : V=" ++ binLiteral 6 e.v.toNat ++ " P=" ++
    binLiteral 4 e.p.mask.toNat ++ " D=" ++ toString e.d.toNat ++ " T=[" ++ String.intercalate "," (e.t.map (nameText names)) ++ "]"

/-- A trace line of an iteration entered at time `t` (R82). -/
def traceLine (names : StateId → Option String) (t : Nat) (s : StateId) (e : Entry) (i : Sample) (next : StateId) : String :=
  toString t ++ " " ++ nameText names s ++ " V=" ++ binLiteral 6 e.v.toNat ++ " P=" ++ binLiteral 4 e.p.mask.toNat ++ " hold=" ++
    toString e.d.toNat ++ " in=" ++ binLiteral 3 i.toNat ++ " -> " ++ nameText names next

/-- An input script (R82). -/
def scriptText (script : List Sample) : String :=
  String.intercalate ", " (script.map fun i => binLiteral 3 i.toNat)

end Sys2Proof.Machine
end

