-- ==== Sys2Proof/Tests/Slice0.lean ====
section
/-! SUPPORT. The model's own tests, expected values from 95_test_vectors.md (part and row in each comment) or the rule named,
and a witness for the hypotheses of each obligation that has any. -/

namespace Sys2Proof.Tests

open Sys2Proof Sys2Proof.Machine

/-! ### Helpers -/

/-- A state `(PH, CUR, VOUT, POUT, CNT, SMP, T)` on a table, its inputs to come scripted. -/
def stOn (tbl : Table) (script : List Sample) (ph : Phase) (cur : StateId) (vout : VMask) (pout : PMask) (cnt : BitVec 8)
    (smp : Sample) (t : Nat) : State where
  ph := ph
  cur := cur
  vout := vout
  pout := pout
  smp := smp
  cnt := cnt
  t := t
  table := tbl
  defect := none
  lastRead := none
  script := script
  free := 0
  resetPending := false
  source := .phase

/-- The same on `TABLE_REF` with nothing scripted. -/
def st := stOn tableRef []

/-- Does an outcome answer a next state with a property? -/
def after (o : Host.Outcome State Fault Refusal) (P : State → Bool) : Bool :=
  match o with
  | .next s => P s
  | _ => false

/-- Does an outcome stop with a fault? -/
def stops (o : Host.Outcome State Fault Refusal) (f : Fault) : Bool :=
  match o with
  | .fault g => g == f
  | _ => false

/-! ### WellFormed: one ill-formed term for each check (part 2.1) -/

theorem test_wf_word0 : (Entry.unpack 0x266654540C8A4).wf = true := by decide
/-- The reserved bits stand in the word alone; a record has none (U1). -/
theorem test_wf_reserved6 : (decode (.entry 0x266654540C8E4)).toOption = none := by decide
theorem test_wf_reserved8 : (decode (.entry 0x266654540C9A4)).toOption = none := by decide
theorem test_wf_dangling : (Instr.state (Entry.unpack 0x3A6654540C8A4)).wf = false := by decide
theorem test_wf_seven : (Instr.state { tableRef.e7 with t := [8, 8, 8, 8, 8, 8, 8] }).wf = false := by decide
theorem test_wf_zero_duration : (Instr.state (Entry.unpack 0x26665454000A4)).wf = true := by decide

/-! ### Decode (part 2.1, opcode table) -/

theorem test_words_ref :
    [0x266654540C8A4, 0x0CCCCC4C518A1, 0x08888888918A1, 0x11111111118A2, 0x266654550C8A4, 0x199999955188C, 0x1DDDDDDDD188C,
      0x2222222211894, 0x266644560C8A4, 0x2AAAAAAA8CA24, 0x2EEEEEEECC8A4, 0x333333330C824, 0x377777774C8A4,
      0x000000000C824].map Entry.unpack = tableEntries tableRef := by decide
theorem test_word9_packs : tableRef.e9.pack = 0x2AAAAAAA8CA24 := by decide
theorem test_decode_phases :
    [0b000, 0b001, 0b010, 0b011, 0b100, 0b101, 0b110, 0b111].map (fun c => (decode (.ph c)).toOption) =
      [some .init, some .emitv, some .emitp, some .load, some .wait, some .sample, some .advance, some .refused] := by decide
theorem test_decode_wrv : (decode (.port 0b100 0b100100)).toOption = some (.wrv 0b100100) := by decide
theorem test_decode_wrp : (decode (.port 0b101 0b001000)).toOption = some (.wrp 0b1000) := by decide
theorem test_decode_rdin : (decode (.port 0b010 0)).toOption = some .rdin := by decide
/-- R80 (e) -/
theorem test_decode_selects_nothing :
    ([0b000, 0b001, 0b011, 0b110, 0b111] : List (BitVec 3)).all (fun c => (decode (.port c 0)).toOption == none) := by decide
/-- the worked decode of word 0, part 2.1 -/
theorem test_decode_state : (decode (.entry 0b10011001100110010101000101010000001100100010100100)).toOption =
    some (.state { v := 0b100100, p := ⟨true, false⟩, d := 50, t := [0, 5, 1, 5, 9, 9, 9, 9] }) := by decide
/-- P7: a word whose `.T[5]` is 14 -/
theorem test_decode_dangling : (decode (.entry 0x11391111118A2)).toOption = none := by decide
theorem test_table_word_state : decodeTableWord 56 0x000000000C824 = some (.state tableRef.e13) := by decide
theorem test_table_word_phase : decodeTableWord 8 6 = some .advance := by decide
theorem test_table_word_none : decodeTableWord 8 8 = none ∧ decodeTableWord 56 (2 ^ 50) = none := by decide

/-! ### Lamps, sensors, text -/

/-- S12 -/
theorem test_senses : senses 4 .pedestrian = true ∧ senses 2 .nsCar = true ∧ senses 1 .ewCar = true := by decide
/-- S10, S11 -/
theorem test_lit : vLit 0b000001 .nsGreen = true ∧ vLit 0b100000 .ewRed = true ∧ pLit 0b0010 .dontWalk = true := by decide
/-- part 2.1, flat transition addresses -/
theorem test_flat : flatAddress 0 2 = 2 ∧ flatAddress 9 7 = 79 ∧ flatAddress 13 0 = 104 := by decide
/-- P2, the second line of the trace -/
theorem test_trace_line : traceLine nameRef 50 1 tableRef.e1 0 1 = "50 GoS V=0b100001 P=0b0010 hold=70 in=0b000 -> GoS" := by
  decide
/-- 40_state_table.md R105, the first line of the listing -/
theorem test_state_line : stateLine nameRef 0 tableRef.e0 =
    "STATE 0 AllRed : V=0b100100 P=0b0010 D=50 T=[AllRed,GoW,GoS,GoW,Walk,Walk,Walk,Walk]" := by decide

/-! ### GET, NEXT, VALIDATE (parts 2.2, 2.3) -/

theorem test_get9 : tableRead tableRef 9 = some ⟨0b100100, ⟨false, true⟩, 50, [10, 10, 10, 10, 10, 10, 10, 10]⟩ := by decide
theorem test_get14 : tableRead tableRef 14 = none := by decide
/-- part 2.2, the row of AllRedW and the corner cases -/
theorem test_next : [0, 1, 2, 3, 4, 5, 6, 7].map (tableNext tableRef 8) =
    [some 8, some 5, some 1, some 1, some 9, some 9, some 9, some 9] ∧
    tableNext tableRef 1 2 = some 1 ∧ tableNext tableRef 4 3 = some 5 ∧ tableNext tableRef 5 4 = some 6 := by decide
theorem test_validate_ref : validate tableRef = none := by decide
theorem test_validate_dangling :
    validate { tableRef with e3 := { tableRef.e3 with t := [4, 4, 4, 4, 4, 14, 4, 4] } } =
      some ⟨.danglingTarget, 3, 5⟩ := by decide
theorem test_validate_lower_state_first :
    validate { tableRef with
      e13 := { tableRef.e13 with t := [15, 0, 0, 0, 0, 0, 0, 0] }
      e2 := { tableRef.e2 with t := [2, 2, 2, 2, 2, 2, 2, 14] } } = some ⟨.danglingTarget, 2, 7⟩ := by decide
theorem test_validate_lower_input_first :
    validate { tableRef with e4 := { tableRef.e4 with t := [4, 5, 14, 5, 9, 9, 14, 9] } } =
      some ⟨.danglingTarget, 4, 2⟩ := by decide
theorem test_validate_seven :
    validate { tableRef with e7 := { tableRef.e7 with t := [8, 8, 8, 8, 8, 8, 8] } } = some ⟨.missingEntry, 7, 7⟩ := by decide
theorem test_validate_count_before_entries :
    validate { tableRef with e7 := { tableRef.e7 with t := [15, 8, 8, 8, 8, 8, 8, 8, 8] } } =
      some ⟨.missingEntry, 7, 9⟩ := by decide
/-- masks and durations are not looked at -/
theorem test_validate_only_transitions :
    validate { tableRef with e0 := { tableRef.e0 with d := 0 }, e1 := { tableRef.e1 with v := 0b001001 } } = none := by decide

/-! ### The operations (parts 2.3 to 2.6) -/

/-- A table INIT refuses (P7). -/
def tableBad : Table := { tableRef with e3 := Entry.unpack 0x11391111118A2 }

theorem test_init_starts : after (step (st .init 0 0b000111 0 9 5 0)) (· == st .emitv 0 0b000111 0 9 5 0) = true := by decide
/-- P7 -/
theorem test_init_refuses : after (step (stOn tableBad [] .init 0 7 0 9 5 0))
    (· == { stOn tableBad [] .refused 0 7 0 9 5 0 with defect := some ⟨.danglingTarget, 3, 5⟩ }) = true := by decide
theorem test_emitv : after (step (st .emitv 1 0b100100 0b0010 0 0 50)) (· == st .emitp 1 0b100001 0b0010 0 0 50) = true := by
  decide
theorem test_emitp : after (step (st .emitp 9 0b100100 0b0010 0 0 50)) (· == st .load 9 0b100100 0b1000 0 0 50) = true := by
  decide
/-- R72: both lamps, legal as an encoding -/
theorem test_emitp_both :
    after (exec .emitp (stOn { tableRef with e9 := { tableRef.e9 with p := ⟨true, true⟩ } } [] .emitp 9 0 0 0 0 0))
      (·.pout == 0b1010) = true := by decide
theorem test_load : after (step (st .load 5 0b001100 0b0010 33 0 7)) (· == st .wait 5 0b001100 0b0010 70 0 7) = true := by
  decide
theorem test_wait_ticks : after (step (st .wait 0 0b100100 0b0010 50 0 0)) (· == st .wait 0 0b100100 0b0010 49 0 1) = true := by
  decide
theorem test_wait_ends : after (step (st .wait 0 0b100100 0b0010 0 0 50)) (· == st .sample 0 0b100100 0b0010 0 0 50) = true := by
  decide
theorem test_sample : after (step (stOn tableRef [0b010, 0b111] .sample 0 0b100100 0b0010 0 0 50))
    (fun s => s.ph == .advance && s.smp == 0b010 && s.script == [0b111] && s.lastRead == some 0b010 && s.cur == 0 &&
      s.vout == 0b100100 && s.pout == 0b0010 && s.t == 50) = true := by decide
theorem test_sample_free : after (step (st .sample 0 0b100100 0b0010 0 0 50))
    (fun s => s.ph == .advance && s.free == 2 && s.t == 50 && s.cur == 0) = true := by decide
theorem test_advance : after (step (st .advance 0 0b100100 0b0010 0 0b010 50))
    (fun s => s.ph == .emitv && s.cur == 1 && s.vout == 0b100100 && s.pout == 0b0010 && s.t == 50) = true := by decide
theorem test_advance_self : after (step (st .advance 1 0b100001 0b0010 0 0b000 50))
    (fun s => s.ph == .emitv && s.cur == 1) = true := by decide
theorem test_refused : stops (step (st .refused 0 0 0 0 0 0)) .stuckRefused = true := by decide
theorem test_wrv : after (exec (.wrv 0b001001) (st .load 0 0b100100 0b0010 0 0 0))
    (· == st .load 0 0b001001 0b0010 0 0 0) = true := by decide
theorem test_wrp : after (exec (.wrp 0b1111) (st .load 0 0b100100 0b0010 0 0 0))
    (· == st .load 0 0b100100 0b1010 0 0 0) = true := by decide
theorem test_wrp_reserved : after (exec (.wrp 0b0101) (st .load 0 0b100100 0b0010 0 0 0)) (·.pout == 0) = true := by decide
theorem test_rdin : after (exec .rdin (stOn tableRef [0b101] .load 0 0b100100 0b0010 7 3 9))
    (· == { stOn tableRef [] .load 0 0b100100 0b0010 7 3 9 with lastRead := some 0b101 }) = true := by decide
/-- P2, second line of the trace as one big step -/
theorem test_state : after (exec (.state tableRef.e1) (stOn tableRef [0b100] .emitv 1 0b100100 0b0010 0 0 120))
    (fun s => s.ph == .emitv && s.cur == 3 && s.vout == 0b100001 && s.pout == 0b0010 && s.t == 190) = true := by
  decide
theorem test_state_missing : stops (exec (.state { tableRef.e1 with t := [1, 3] }) (st .emitv 1 0 0 0 0 0))
    (.missingTransition 1) = true := by decide
theorem test_no_entry : stops (step (st .emitv 14 0 0 0 0 0)) (.noEntry 14) = true := by decide

/-! ### Reset, port words, placing words -/

/-- part 2.7: a reset in the middle of Walk -/
theorem test_reset_in_hold : after (step { st .wait 9 0b100100 0b1000 23 0 377 with resetPending := true })
    (fun s => s.ph == .init && s.cur == 0 && s.t == 0 && s.defect == none) = true := by decide
/-- part 2.7: a reset of a refused machine -/
theorem test_reset_of_refused : after (step { st .refused 0 0 0 0 0 0 with resetPending := true })
    (fun s => s.ph == .init && s.t == 0) = true := by decide
theorem test_reset_state : State.reset.ph = .init ∧ State.reset.cur = 0 ∧ State.reset.t = 0 := by decide
theorem test_port_word : after (step { st .load 0 0b100100 0b0010 0 0 0 with source := .port 0b100 0b001001 })
    (· == st .load 0 0b001001 0b0010 0 0 0) = true := by decide
theorem test_port_word_none : stops (step { st .load 0 0 0 0 0 0 with source := .port 0b011 0 })
    (.badPortWord (.selectsNothing 0b011)) = true := by decide
/-- R111: the entry of YellowS placed after reset runs as the first step, its masks shown and 70 quanta held. -/
theorem test_placed_entry : after (step (State.reset.withFetchWord 56 0x11111111118A2))
    (fun s => s.ph == .emitv && s.t == 70 && s.vout == 0b100010 && s.pout == 0b0010) = true := by decide
/-- U1: an entry word with a reserved bit set is not placed. -/
theorem test_placed_reserved : State.reset.withFetchWord 56 0x266654540C8E4 = State.reset := rfl
theorem test_placed_phase : after (step (State.reset.withFetchWord 8 1)) (·.ph == .emitp) = true := by decide

/-! ### Witnesses: for each obligation with hypotheses, states and operands that meet all of them together, one for each
clause, at the ends of the ranges. -/

/-- A machine waiting in Walk with the counter at its largest value. -/
def walking : State := stOn tableRef [0, 7, 3, 5, 1, 2] .wait 9 0b100100 0b1000 255 0 50

theorem witness_DecodeOfEncode : (Instr.state tableRef.e13).wf = true ∧ (Instr.wrp 0b1111).wf = true := by decide
theorem witness_EncodeOfDecode : decode (.entry 0x266654540C8A4) = .ok (.state tableRef.e0) ∧
    decode (.port 0b101 0b001111) = .ok (.wrp 0b1111) := ⟨by decide, rfl⟩
theorem witness_PortSelectorsSelectThreeOperations :
    (0b111 : BitVec 3) ≠ 0b100 ∧ (0b111 : BitVec 3) ≠ 0b101 ∧ (0b111 : BitVec 3) ≠ 0b010 := by decide
theorem witness_EntryWordFields : (0x266654540C8A4 : BitVec 50).getLsbD 6 = false ∧
    (0x266654540C8A4 : BitVec 50).getLsbD 8 = false ∧ ∀ n ∈ (Entry.unpack 0x266654540C8A4).t, n.toNat ≤ 13 := by decide
theorem witness_StepPerformsThePhase : Engine walking := ⟨rfl, rfl⟩
theorem witness_StepPerformsTheEntry :
    let s := { st .emitv 13 0 0 0 0 0 with source := .iteration }
    s.resetPending = false ∧ s.source = .iteration ∧ s.ph = .emitv ∧ tableRead s.table s.cur = some tableRef.e13 ∧
      { s with ph := .init }.ph ≠ .emitv := by decide
theorem witness_StepPerformsThePortWord :
    { walking with source := .port 0b010 0 }.resetPending = false ∧ decode (.port 0b010 0) = .ok .rdin ∧
      decode (.port 0b010 1) = .error (.strayData 0b010 1) ∧ decode (.port 0b110 1) = .error (.selectsNothing 0b110) :=
  ⟨rfl, rfl, rfl, rfl⟩
theorem witness_PlacedWordIsPerformed : decodeTableWord 56 0x377777774C8A4 = some (.state tableRef.e12) ∧
    decodeTableWord 8 0 = some .init ∧ decodeTableWord 8 7 = some .refused := by decide
theorem witness_InitStartsOrRefuses : validate (st .init 0 0 0 0 0 0).table = none ∧
    validate (stOn tableBad [] .init 0 0 0 0 0 0).table = some ⟨.danglingTarget, 3, 5⟩ ∧ Engine walking ∧
    step walking = .next (tick walking) := ⟨by decide, by decide, ⟨rfl, rfl⟩, rfl⟩
theorem witness_EmitvWritesTheVehicleMask : (st .emitv 13 0 0 0 0 0).cur.toNat ≤ 13 := by decide
theorem witness_EmitpWritesThePedestrianMask : (st .emitp 0 0 0 0 0 0).cur.toNat ≤ 13 := by decide
theorem witness_LoadSetsTheCounter : (st .load 13 0 0 255 0 0).cur.toNat ≤ 13 := by decide
theorem witness_WaitCountsDown : (st .wait 0 0 0 0 0 0).cnt = 0 ∧ walking.cnt ≠ 0 ∧ Engine walking ∧ walking.ph = .wait ∧
    255 ≤ walking.cnt.toNat := ⟨by decide, by decide, ⟨rfl, rfl⟩, rfl, by decide⟩
theorem witness_CounterNeverWraps : exec .wait (st .wait 0 0 0 1 0 0) = .next (st .wait 0 0 0 0 0 1) ∧
    (st .wait 0 0 0 1 0 0).cnt ≠ 0 := ⟨rfl, by decide⟩
theorem witness_LoadAndWaitsAreWaitN :
    let s := stOn { tableRef with e3 := { tableRef.e3 with d := 0 } } [] .load 3 0 0 7 0 0
    Engine s ∧ s.ph = .load ∧ tableRead s.table s.cur = some { tableRef.e3 with d := 0 } := ⟨⟨rfl, rfl⟩, rfl, rfl⟩
theorem witness_SampleLatchesTheInput : walking.script = 0 :: [7, 3, 5, 1, 2] ∧ (st .sample 0 0 0 0 0 0).script = [] ∧
    Engine walking ∧ walking.ph ≠ .sample ∧ step walking = .next (tick walking) :=
  ⟨rfl, rfl, ⟨rfl, rfl⟩, by decide, rfl⟩
theorem witness_AdvanceTakesTheSelectedState : tableRead walking.table walking.cur = some tableRef.e9 ∧
    tableRef.e9.t.length = 8 ∧ validate walking.table = none := by decide
theorem witness_RefusedHasNoStep : Engine (st .refused 0 0 0 0 0 0) ∧ (st .refused 0 0 0 0 0 0).ph = .refused ∧
    { st .refused 0 0 0 0 0 0 with resetPending := true }.resetPending = true := ⟨⟨rfl, rfl⟩, rfl, rfl⟩
theorem witness_WrvWritesVout : Engine walking ∧ step walking = .next (tick walking) ∧ walking.ph ≠ .emitv ∧
    tableRead walking.table walking.cur = some tableRef.e9 := ⟨⟨rfl, rfl⟩, rfl, by decide, rfl⟩
theorem witness_WrpWritesPout : Engine walking ∧ step walking = .next (tick walking) ∧ walking.ph ≠ .emitp ∧
    tableRead walking.table walking.cur = some tableRef.e9 := ⟨⟨rfl, rfl⟩, rfl, by decide, rfl⟩
theorem witness_RdinReturnsTheInput : walking.script = 0 :: [7, 3, 5, 1, 2] ∧ (st .load 0 0 0 0 0 0).script = [] := by decide
theorem witness_StatePerformsOneIteration : tableRef.e5.t.length = 8 ∧ walking.script = 0 :: [7, 3, 5, 1, 2] ∧
    (st .emitv 5 0 0 0 0 0).script = [] ∧ { tableRef.e5 with t := [] }.t.length ≠ 8 := by decide
theorem witness_IterationIsItsPhases : Engine (st .emitv 13 0 0 0 0 0) ∧ (st .emitv 13 0 0 0 0 0).ph = .emitv ∧
    tableRead tableRef 13 = some tableRef.e13 ∧ tableRef.e13.t.length = 8 := ⟨⟨rfl, rfl⟩, rfl, rfl, rfl⟩
theorem witness_NoEntryNoDefault : 13 < (st .emitv 14 0 0 0 0 0).cur.toNat ∧ 13 < (st .emitv 15 0 0 0 0 0).cur.toNat ∧
    Engine (st .emitv 15 0 0 0 0 0) ∧ (st .emitv 15 0 0 0 0 0).ph = .emitv ∧
    { st .emitv 14 0 0 0 0 0 with source := .iteration }.resetPending = false ∧
    { st .emitv 14 0 0 0 0 0 with source := .iteration }.source = .iteration ∧
    { st .advance 14 0 0 0 0 0 with source := .iteration }.ph = .advance := ⟨by decide, by decide, ⟨rfl, rfl⟩, rfl, rfl, rfl, rfl⟩
/-- R28: the same hardware, started on two tables, goes two ways. -/
theorem test_step_on : after (mapNext (Hw.on tableRef) (stepOn tableRef (st .init 0 0 0 0 0 0).hw)) (·.ph == .emitv) = true ∧
    after (mapNext (Hw.on tableBad) (stepOn tableBad (st .init 0 0 0 0 0 0).hw)) (·.ph == .refused) = true := by decide
theorem witness_OnlyRefusedStopsOnAValidTable : validate walking.table = none ∧ walking.cur.toNat ≤ 13 ∧
    Instr.state tableRef.e0 ≠ .refused ∧ tableRef.e0.t.length = 8 := by decide
theorem witness_NextIsTheSelectedTransition : tableRef.e0.t.length = 8 ∧ tableRead tableRef 13 = some tableRef.e13 ∧
    validate tableRef = none ∧ (13 : StateId).toNat ≤ 13 ∧ 13 < (14 : StateId).toNat := by decide
theorem witness_ValidateReportsTheFirstDefect : validate tableBad = some ⟨.danglingTarget, 3, 5⟩ ∧
    validate { tableRef with e13 := { tableRef.e13 with t := [] } } = some ⟨.missingEntry, 13, 0⟩ := by decide
theorem witness_NoStepWritesTheTable : step walking = .next (tick walking) := rfl
theorem witness_ReferenceDeadStateUnreachable : (13 : StateId).toNat ≤ 13 ∧ (13 : StateId) ≠ 2 := by decide
theorem witness_DeadStateIsNeverLeft : (∀ i, tableNext tableRef 2 i = some 2) ∧ Engine (st .advance 2 0 0 0 0 0) ∧
    (st .wait 2 0 0 1 0 0).ph ≠ .init ∧ step (st .wait 2 0 0 1 0 0) = .next (st .wait 2 0 0 0 0 1) :=
  ⟨by decide, ⟨rfl, rfl⟩, by decide, rfl⟩

/-- The transitions of `TABLE_REF` from Walk on. -/
theorem tableRef_path : PedestrianPath tableRef rolesRef :=
  ⟨by decide, by decide, by decide, by decide, 0, by decide, by decide⟩

/-- States that are left only among themselves or to a buffer state: a path that ends outside them meets a buffer. -/
theorem path_leaves_zone (zone : StateId → Bool)
    (hz : ∀ s i, zone s = true → ∃ n, tableNext tableRef s i = some n ∧ (zone n = true ∨ n ∈ rolesRef.buf)) :
    ∀ ins s c, zone s = true → path tableRef s ins = some c → zone c = false →
      ∃ k, k ≤ ins.length ∧ ∃ b ∈ rolesRef.buf, path tableRef s (ins.take k) = some b := by
  intro ins
  induction ins with
  | nil =>
    intro s c h hp hc
    simp only [path, Option.some.injEq] at hp
    rw [hp, hc] at h
    cases h
  | cons i rest ih =>
    intro s c h hp hc
    obtain ⟨n, hn, hz' | hb⟩ := hz s i h
    · simp only [path, hn] at hp
      obtain ⟨k, hk, b, hb, hpb⟩ := ih n c hz' hp hc
      exact ⟨k + 1, by simpa using hk, b, hb, by simpa [path, hn] using hpb⟩
    · exact ⟨1, by simp, n, hb, by simp [path, hn]⟩

theorem tableRef_greenNs (s : StateId) : GreenNs tableRef s ↔ s = 1 ∨ s = 2 := by
  have : ∀ s : StateId, (∃ e ∈ tableRead tableRef s, vLit e.v .nsGreen = true) ↔ s = 1 ∨ s = 2 := by decide
  rw [← this]
  rfl

theorem tableRef_greenEw (s : StateId) : GreenEw tableRef s ↔ s = 5 ∨ s = 6 := by
  have : ∀ s : StateId, (∃ e ∈ tableRead tableRef s, vLit e.v .ewGreen = true) ↔ s = 5 ∨ s = 6 := by decide
  rw [← this]
  rfl

theorem tableRef_dark : BuffersDark tableRef rolesRef := by
  have : ∀ b ∈ rolesRef.buf, ∃ e ∈ tableRead tableRef b, vLit e.v .nsGreen = false ∧ vLit e.v .ewGreen = false := by decide
  exact this

theorem tableRef_buffered : Buffered tableRef rolesRef := by
  intro a c ins hc hp
  have ns := path_leaves_zone (fun s => s = 1 ∨ s = 2 ∨ s = 3) (by decide) ins a c
  have ew := path_leaves_zone (fun s => s = 5 ∨ s = 6 ∨ s = 7) (by decide) ins a c
  have ped := path_leaves_zone (fun s => s = 9 ∨ s = 10 ∨ s = 11 ∨ s = 12 ∨ s = 13) (by decide) ins a c
  simp only [Conflicting, tableRef_greenNs, tableRef_greenEw, show rolesRef.walk = 9 from rfl] at hc
  rcases hc with ⟨ha, hc⟩ | ⟨ha, hc⟩ | ⟨rfl, hc⟩
  · exact ns (by rcases ha with rfl | rfl <;> decide) hp (by rcases hc with (rfl | rfl) | rfl <;> decide)
  · exact ew (by rcases ha with rfl | rfl <;> decide) hp (by rcases hc with (rfl | rfl) | rfl <;> decide)
  · exact ped (by decide) hp (by rcases hc with (rfl | rfl) | (rfl | rfl) <;> decide)

theorem tableRef_unreached : ¬ Reachable tableRef 2 := by
  have into : ∀ s i, tableNext tableRef s i = some 2 → s = 2 := by decide
  have away : ∀ ins s, s ≠ 2 → path tableRef s ins ≠ some 2 := by
    intro ins
    induction ins with
    | nil => intro s hs; simpa [path] using hs
    | cons i rest ih =>
      intro s hs
      simp only [path]
      split
      · next n hn => exact ih n fun h => hs (into s i (h ▸ hn))
      · simp
  exact fun ⟨ins, h⟩ => away ins Config.start (by decide) h

/-- Part 3 P4: GoS, YellowS, AllRedS, GoW, WestStartY, YellowW, AllRedW, GoS under `0b011`. -/
theorem tableRef_roundRobin : RoundRobin tableRef rolesRef := by
  have ns (s : StateId) : EntryHas tableRef s (fun e => vLit e.v dirNs.green = true) ↔ s = 1 ∨ s = 2 := tableRef_greenNs s
  have ew (s : StateId) : EntryHas tableRef s (fun e => vLit e.v dirEw.green = true) ↔ s = 5 ∨ s = 6 := tableRef_greenEw s
  refine ⟨?_, ?_, ?_, ?_⟩
  · simp only [tableRef_greenNs, tableRef_greenEw]
    decide
  · have key : ∀ b ∈ rolesRef.buf, path tableRef b (List.replicate 1 0b010) = some 1 ∧
        path tableRef b (List.replicate 1 0b001) = some 5 := by decide
    intro b hb
    exact ⟨⟨1, 1, (key b hb).1, (ns 1).mpr (by simp), fun j hj => ⟨b, hb, by simp [show j = 0 by omega, path]⟩⟩,
      ⟨1, 5, (key b hb).2, (ew 5).mpr (by simp), fun j hj => ⟨b, hb, by simp [show j = 0 by omega, path]⟩⟩⟩
  · intro g hr hg
    rcases (ns g).mp hg with rfl | rfl
    · exact ⟨2, 4, by decide, by decide, by decide, 1, 5, by decide, (ew 5).mpr (by simp),
        fun j hj => ⟨4, by decide, by simp [show j = 0 by omega, path]⟩⟩
    · exact absurd hr tableRef_unreached
  · intro g _ hg
    rcases (ew g).mp hg with rfl | rfl
    · exact ⟨3, 8, by decide, by decide, by decide, 1, 1, by decide, (ns 1).mpr (by simp),
        fun j hj => ⟨8, by decide, by simp [show j = 0 by omega, path]⟩⟩
    · exact ⟨2, 8, by decide, by decide, by decide, 1, 1, by decide, (ns 1).mpr (by simp),
        fun j hj => ⟨8, by decide, by simp [show j = 0 by omega, path]⟩⟩

/-- A table whose buffer state answers an EW car with walk has no round-robin (C3). -/
theorem test_round_robin_walk :
    ¬ RoundRobin { tableRef with e4 := { tableRef.e4 with t := [4, 9, 1, 5, 9, 9, 9, 9] } } rolesRef := by
  rintro ⟨h, -⟩
  obtain ⟨n, hn, hg⟩ := h 4 (by decide) 0b001 (by decide)
  cases (show some 9 = some n from hn)
  obtain hg | ⟨e, he, hl⟩ | ⟨e, he, hl⟩ := hg
  · exact absurd hg (by decide)
  all_goals
    cases he
    exact absurd hl (by decide)

/-- Nor has one that grants NS again after NS while both ask. -/
theorem test_round_robin_always_ns :
    ¬ RoundRobin { tableRef with e4 := { tableRef.e4 with t := [4, 5, 1, 1, 9, 9, 9, 9] } } rolesRef := by
  rintro ⟨-, -, h, -⟩
  obtain ⟨m, b, hb, hp, hfirst, k, c, hc, ⟨e, he, hl⟩, hbuf⟩ := h 1 ⟨[0b010], rfl⟩ ⟨_, rfl, rfl⟩
  have hm : m = 2 := by
    rcases Nat.lt_trichotomy m 2 with hm | hm | hm
    · interval_cases m <;> cases hp <;> exact absurd hb (by decide)
    · exact hm
    · exact absurd rfl (hfirst 2 hm 4 (by decide))
  subst hm
  cases (show some 4 = some b from hp)
  have hk : k ≤ 1 := by
    by_contra hk
    obtain ⟨q, hq, hp⟩ := hbuf 1 (by omega)
    cases (show some 1 = some q from hp)
    exact absurd hq (by decide)
  interval_cases k <;> cases hc <;> cases he <;> exact absurd hl (by decide)

/-- R96 in full on `TABLE_REF`: the flash phases switch the don't-walk lamp. -/
theorem test_pedestrian_sequence : PedestrianSequence tableRef rolesRef := by
  refine ⟨tableRef_path, ⟨_, rfl, by decide⟩,
    ⟨.dontWalk, ⟨_, rfl, by decide⟩, ⟨_, rfl, by decide⟩, ⟨_, rfl, by decide⟩, ⟨_, rfl, by decide⟩⟩, ?_⟩
  have : ∀ i b, tableNext tableRef 13 i = some b → ∃ e ∈ tableRead tableRef b, pLit e.p.mask .dontWalk = true := by decide
  exact this

/-- R96 refuses a table whose flash phases do not go dark. -/
theorem test_pedestrian_flash :
    ¬ PedestrianFlash { tableRef with e11 := { tableRef.e11 with p := .ofMask pDont } } rolesRef := by
  rintro ⟨k, h1, h2, -, -⟩
  obtain ⟨e1, r1, l1⟩ := h1
  obtain ⟨e2, r2, l2⟩ := h2
  cases r1
  cases r2
  exact absurd (l1.symm.trans l2) (by decide)

theorem witness_PersistentPedestrianStarvesTheVehicles : PedestrianPath tableRef rolesRef ∧
    PedestrianPriority tableRef rolesRef ∧ (8 : StateId) ∈ rolesRef.buf ∧
    (∀ i ∈ ([4, 5, 6, 7] : List Sample), senses i .pedestrian = true) ∧
    BuffersDark tableRef rolesRef ∧ Buffered tableRef rolesRef :=
  ⟨tableRef_path, by unfold PedestrianPriority; decide, by decide, by decide, tableRef_dark, tableRef_buffered⟩
theorem witness_ResetForgetsEverything :
    { walking with resetPending := true }.resetPending = true ∧
    { st .refused 0 0 0 0 0 0 with resetPending := true, script := walking.script }.table = walking.table ∧
    { st .refused 0 0 0 0 0 0 with resetPending := true, script := walking.script }.free = walking.free := ⟨rfl, rfl, rfl⟩
theorem witness_DefectiveTableIsRefusedForEver : validate tableBad = some ⟨.danglingTarget, 3, 5⟩ ∧
    (stOn tableBad [] .refused 0 0 0 0 0 0).ph = .refused ∧
    { stOn tableBad [] .refused 0 0 0 0 0 0 with resetPending := true }.table = tableBad := by decide
theorem witness_FirstIterationShowsStart : validate tableRef = none ∧ tableRead tableRef Config.start = some tableRef.e0 := by
  decide
theorem witness_PhasesFollowTheirOrder : Engine walking ∧ step walking = .next (tick walking) := ⟨⟨rfl, rfl⟩, rfl⟩
theorem witness_EachRegisterHasItsWriter : Engine walking ∧ step walking = .next (tick walking) ∧
    (tick walking).cnt ≠ walking.cnt ∧ (tick walking).t ≠ walking.t := ⟨⟨rfl, rfl⟩, rfl, by decide, by decide⟩
theorem witness_HoldIsStable : Engine walking ∧ HoldPhase walking.ph ∧ step walking = .next (tick walking) ∧
    step (st .wait 9 0 0 0 0 0) = .next (st .sample 9 0 0 0 0 0) := ⟨⟨rfl, rfl⟩, .inr (.inl rfl), rfl, rfl⟩

theorem witness_StepKeepsMachineInv : MachineInv walking ∧ step walking = .next (tick walking) :=
  ⟨⟨rfl, by unfold CurNamed; decide, by decide, by decide⟩, rfl⟩

/-- A machine at LOAD in Walk: it meets `RunInv`. -/
def atWalk : State := stOn tableRef [] .load 9 0b100100 0b1000 0 0 50

theorem atWalk_runInv : RunInv atWalk :=
  ⟨⟨rfl, by unfold CurNamed; decide, by decide, by decide⟩, by decide, by decide, .inl rfl, ⟨_, rfl, rfl, rfl⟩, trivial⟩

theorem witness_StartedMachineNeverStops : RunInv atWalk ∧ validate tableRef = none := ⟨atWalk_runInv, by decide⟩

/-- `TABLE_REF` three steps after reset: INIT, EMITV, EMITP. -/
def afterEmits : State :=
  { State.resetWith tableRef [] 0 with vout := 0b100100, pout := 0b0010, ph := .load }

theorem afterEmits_reached : runs 3 (State.resetWith tableRef [] 0) = .next afterEmits := rfl

theorem tableRef_excludes : MutualExclusion tableRef := by
  constructor
  · have : ∀ s : StateId, ∀ e ∈ tableRead tableRef s, ¬ (vLit e.v .nsGreen = true ∧ vLit e.v .ewGreen = true) := by decide
    exact fun s e _ h => this s e h
  · have : ∀ s : StateId, ∀ e ∈ tableRead tableRef s,
        pLit e.p.mask .walk = true → vLit e.v .nsGreen = false ∧ vLit e.v .ewGreen = false := by decide
    exact fun s e h => this s e h

/-- At EMITP in Walk, AllRed left: the pedestrian lamps are still AllRed's. -/
def intoWalk : State := stOn tableRef [] .emitp 9 0b100100 0b0010 0 0 50

theorem witness_StepKeepsRunInv :
    (RunInv atWalk ∧ atWalk.resetPending = false ∧ Shown atWalk ∧
      step atWalk = .next { atWalk with ph := .wait, cnt := 50 }) ∧
    (RunInv intoWalk ∧ Shown intoWalk ∧ step intoWalk = .next atWalk) ∧
    validate tableRef = none ∧ runs 3 (State.resetWith tableRef [] 0) = .next afterEmits :=
  ⟨⟨atWalk_runInv, rfl, ⟨_, rfl, rfl, rfl⟩, rfl⟩,
    ⟨⟨⟨rfl, by unfold CurNamed; decide, by decide, by decide⟩, by decide, by decide, .inl rfl, ⟨_, rfl, rfl⟩, trivial⟩,
      ⟨⟨_, rfl, rfl⟩, 0, 4, rfl, _, rfl, rfl⟩, rfl⟩,
    by decide, afterEmits_reached⟩
theorem witness_OutputsDependOnTheStateOnly : validate tableRef = none ∧
    runs 3 (State.resetWith tableRef [] 0) = .next afterEmits ∧ HoldPhase afterEmits.ph :=
  ⟨by decide, afterEmits_reached, .inl rfl⟩
theorem witness_BothDirectionsAreServedForEver : RoundRobin tableRef rolesRef ∧ MutualExclusion tableRef ∧
    (Reachable tableRef 1 ∧ GreenNs tableRef 1) ∧ Reachable tableRef 6 ∧ GreenEw tableRef 6 :=
  ⟨tableRef_roundRobin, tableRef_excludes, ⟨⟨[2], rfl⟩, _, rfl, rfl⟩, ⟨[1, 2], rfl⟩, _, rfl, rfl⟩
theorem witness_StepKeepsCurReachable : Reachable (st .advance 0 0 0 0 4 0).table (st .advance 0 0 0 0 4 0).cur ∧
    Reachable walking.table walking.cur ∧ step walking = .next (tick walking) ∧
    ∃ t, step (st .advance 0 0 0 0 4 0) = .next t := ⟨⟨[], rfl⟩, ⟨[4], rfl⟩, rfl, ⟨_, rfl⟩⟩
theorem witness_HoldsNeverShowAConflict : validate tableRef = none ∧ MutualExclusion tableRef ∧
    runs 3 (State.resetWith tableRef [] 0) = .next afterEmits ∧ HoldPhase afterEmits.ph :=
  ⟨by decide, tableRef_excludes, afterEmits_reached, .inl rfl⟩
theorem witness_StepKeepsRefShown : RefShown afterEmits ∧ (∃ t, step afterEmits = .next t) ∧
    runs 3 (State.resetWith tableRef [] 0) = .next afterEmits :=
  ⟨⟨⟨rfl, rfl⟩, rfl, by change Config.start ≠ 2; decide, _, rfl, rfl, rfl⟩, ⟨_, rfl⟩, afterEmits_reached⟩
theorem witness_ReferenceLampsAreSafe : runs (0 + 3) (State.resetWith tableRef [] 0) = .next afterEmits := afterEmits_reached
theorem witness_RunVisitsThePath : validate tableRef = none := by decide
theorem witness_PedestrianCycleLastsItsDurations :
    let s := { walking with ph := .emitv, script := [6] }
    validate s.table = none ∧ PedestrianPath s.table rolesRef ∧ Engine s ∧ s.ph = .emitv ∧ s.cur = rolesRef.walk ∧
      tableRead s.table rolesRef.walk = some tableRef.e9 ∧
      tableRead s.table rolesRef.f1a = some tableRef.e10 ∧ tableRead s.table rolesRef.f1b = some tableRef.e11 ∧
      tableRead s.table rolesRef.f2a = some tableRef.e12 ∧ tableRead s.table rolesRef.f2b = some tableRef.e13 :=
  ⟨by decide, tableRef_path, ⟨rfl, rfl⟩, rfl, rfl, rfl, rfl, rfl, rfl, rfl⟩
theorem witness_StepIsDeterminedByTheSamples :
    Engine walking ∧ Engine { walking with smp := 7, free := 9 } ∧ HwAgree walking { walking with smp := 7, free := 9 } ∧
      HwAgree (st .sample 0 0 0 0 0 0) (st .sample 0 0 0 9 0 0) ∧
      (walking.ph = .sample → envSample walking = envSample { walking with smp := 7, free := 9 }) ∧
      step walking = .next (tick walking) :=
  ⟨⟨rfl, rfl⟩, ⟨rfl, rfl⟩, ⟨rfl, rfl, rfl, rfl, rfl, rfl, fun _ => rfl, by decide⟩,
    ⟨rfl, rfl, rfl, rfl, rfl, rfl, by decide, by decide⟩, fun _ => rfl, rfl⟩
theorem witness_InputsAreSeenAtSampleOnly : Engine walking ∧ walking.ph ≠ .sample ∧ step walking = .next (tick walking) :=
  ⟨⟨rfl, rfl⟩, by decide, rfl⟩

end Sys2Proof.Tests
end

/-! ## Proofs: the state (10_state.md) -/

namespace Sys2Proof.Machine

/-! ### Tables that pass the check -/

/-- A scan of entries finds nothing exactly when each of them has eight transitions and all of these name states. -/
theorem scanEntries_eq_none_iff (k : Nat) (l : List Entry) :
    scanEntries k l = none ↔ ∀ e ∈ l, e.t.length = 8 ∧ ∀ n ∈ e.t, n.toNat ≤ 13 := by
  induction l generalizing k with
  | nil => simp [scanEntries]
  | cons e rest ih =>
    rw [scanEntries, List.forall_mem_cons, ← checkEntry_eq_none_iff k e, ← ih (k + 1)]
    cases checkEntry k e <;> simp

theorem mem_tableEntries_of_tableRead {tbl : Table} {s : StateId} {e : Entry} (he : tableRead tbl s = some e) :
    e ∈ tableEntries tbl :=
  List.mem_of_getElem? ((tableRead_eq_getElem? tbl s).symm.trans he)

theorem entry_of_validate {tbl : Table} {s : StateId} {e : Entry} (hv : validate tbl = none)
    (he : tableRead tbl s = some e) : e.t.length = 8 ∧ ∀ n ∈ e.t, n.toNat ≤ 13 :=
  (scanEntries_eq_none_iff 0 _).mp hv e (mem_tableEntries_of_tableRead he)

/-- R94: on a checked table the multiplexer passes on a state identifier. -/
theorem entryNext_le_of_validate {tbl : Table} {s n : StateId} {e : Entry} {i : Sample} (hv : validate tbl = none)
    (he : tableRead tbl s = some e) (hn : entryNext e i = some n) : n.toNat ≤ 13 :=
  (entry_of_validate hv he).2 n (entryNext_mem hn)

/-! ### The port operations by themselves -/

/-- A port word is one of the three port operations or nothing. -/
theorem decode_port_cases {sel : BitVec 3} {data : BitVec 6} {i : Instr} (h : decode (.port sel data) = .ok i) :
    (∃ m, i = .wrv m) ∨ (∃ m, i = .wrp m) ∨ i = .rdin := by
  simp only [decode, decodePort] at h
  split at h
  · exact .inl ⟨_, (Except.ok.inj h).symm⟩
  · split at h
    · exact .inr (.inl ⟨_, (Except.ok.inj h).symm⟩)
    · cases h
  · split at h
    · exact .inr (.inr (Except.ok.inj h).symm)
    · cases h
  · cases h

/-- What a port operation taken by itself leaves (43_ports.md R140 to R142). -/
theorem exec_port_cases {sel : BitVec 3} {data : BitVec 6} {i : Instr} {s t : State}
    (hd : decode (.port sel data) = .ok i) (h : exec i s = .next t) :
    (∃ m, t = portWriteVout m s) ∨ (∃ m, t = portWritePout m s) ∨ t = portReadIn s := by
  obtain ⟨m, rfl⟩ | ⟨m, rfl⟩ | rfl := decode_port_cases hd
  · exact .inl ⟨m, (Host.Outcome.next.inj h).symm⟩
  · exact .inr (.inl ⟨m, (Host.Outcome.next.inj h).symm⟩)
  · exact .inr (.inr (Host.Outcome.next.inj h).symm)

/-! ### The table is never written -/

@[simp] theorem retireSource_table (s : State) : (retireSource s).table = s.table := by
  unfold retireSource; split <;> rfl

theorem exec_refused_ne_next (s t : State) : exec .refused s ≠ .next t := nofun

/-- R50, one operation. -/
theorem exec_table {i : Instr} {s t : State} (h : exec i s = .next t) : t.table = s.table := by
  cases i with
  | init => obtain ⟨-, rfl⟩ | ⟨d, -, rfl⟩ := execInit_cases h <;> rfl
  | emitv => obtain ⟨e, -, rfl⟩ := execEmitv_cases h; rfl
  | emitp => obtain ⟨e, -, rfl⟩ := execEmitp_cases h; rfl
  | load => obtain ⟨e, -, rfl⟩ := execLoad_cases h; rfl
  | wait => obtain ⟨-, rfl⟩ | ⟨-, rfl⟩ := execWait_cases h <;> rfl
  | sample => simp [execSample_cases h]
  | advance => obtain ⟨e, n, -, -, rfl⟩ := execAdvance_cases h; rfl
  | refused => exact absurd h (exec_refused_ne_next s t)
  | wrv m => simp [← Host.Outcome.next.inj h]
  | wrp m => simp [← Host.Outcome.next.inj h]
  | rdin => simp [← Host.Outcome.next.inj h]
  | state e => obtain ⟨n, -, rfl⟩ := execState_cases h; simp [showAndHold]

/-- R50, one step from any source. -/
theorem step_table {s t : State} (h : step s = .next t) : t.table = s.table := by
  obtain ⟨-, rfl⟩ | ⟨-, i, -, hx⟩ := step_next_cases h
  · rfl
  · simpa using exec_table hx

/-! ### The table as a parameter -/

/-- The hardware and the table put together again are the state. -/
theorem hw_on {s : State} {tbl : Table} (h : s.table = tbl) : s.hw.on tbl = s := by subst h; rfl

theorem step_eq_stepOn (s : State) : step s = mapNext (Hw.on s.table) (stepOn s.table s.hw) := by
  rw [stepOn, hw_on rfl]
  cases hs : step s with
  | next t => simp [hw_on (step_table hs)]
  | fault f => rfl
  | refused r => rfl

theorem runs_eq_run_coreOn (k : Nat) (s : State) : runs k s = mapNext (Hw.on s.table) ((coreOn s.table).run k s.hw) := by
  induction k generalizing s with
  | zero => rfl
  | succ k ih =>
    have hstep : (coreOn s.table).step s.hw = mapNext State.hw (step s) := rfl
    cases hs : step s with
    | next t =>
      rw [hs] at hstep
      rw [runs_succ_of_next k hs, coreRun_succ_of_next _ k hstep, ih t, step_table hs]
    | fault f =>
      rw [hs] at hstep
      rw [runs_succ_of_fault k hs, coreRun_succ_of_fault _ k hstep]; rfl
    | refused r =>
      rw [hs] at hstep
      rw [runs_succ_of_refused k hs, coreRun_succ_of_refused _ k hstep]; rfl

/-- Settles O56: no step writes the table, so it can be left out of the state and put back after a step. -/
theorem tableIsAParameterOfTheStep : Obligations.TableIsAParameterOfTheStep :=
  ⟨fun _ _ => ⟨rfl, rfl⟩, fun _ => hw_on rfl, step_eq_stepOn, runs_eq_run_coreOn⟩

/-! ### The writer of each register -/

/-- Settles O42, one case for each phase that has a step. -/
theorem eachRegisterHasItsWriter : Obligations.EachRegisterHasItsWriter := by
  intro s t hE hs
  obtain ⟨hp, h⟩ | ⟨hp, h⟩ | ⟨hp, h⟩ | ⟨hp, h⟩ | ⟨hp, h⟩ | ⟨hp, h⟩ | ⟨hp, h⟩ := engine_step_cases hE hs
  · obtain ⟨-, rfl⟩ | ⟨d, -, rfl⟩ := execInit_cases h <;> simp [hp]
  · obtain ⟨e, -, rfl⟩ := execEmitv_cases h
    simp [hp]
  · obtain ⟨e, -, rfl⟩ := execEmitp_cases h
    simp [hp]
  · obtain ⟨e, -, rfl⟩ := execLoad_cases h
    simp [hp]
  · obtain ⟨-, rfl⟩ | ⟨-, rfl⟩ := execWait_cases h <;> simp [hp]
  · simp [hp, execSample_cases h]
  · obtain ⟨e, n, -, -, rfl⟩ := execAdvance_cases h
    simp [hp]

/-! ### The machine invariant -/

/-- R33: what a reset leaves meets the invariant, as no free value reaches the hard-wired bits of `POUT`. -/
theorem machineInv_resetWith (tbl : Table) (script : List Sample) (n : Nat) :
    MachineInv (State.resetWith tbl script n) :=
  ⟨poutOf_reserved _, Nat.zero_le 13, nofun, fun h => absurd rfl h⟩

/-- Settles O37. -/
theorem resetState : Obligations.ResetState := ⟨rfl, rfl, rfl, poutOf_reserved _⟩

/-- Settles O44. -/
theorem machineInvAtReset : Obligations.MachineInvAtReset := ⟨machineInv_resetWith _ _ _, machineInv_resetWith⟩

/-- A machine on a checked table that is not refused meets the invariant by its two registers. -/
theorem machineInv_of_checked {s : State} (hv : validate s.table = none) (hr : s.ph ≠ .refused) (hpout : PoutWf s)
    (hcur : CurNamed s) : MachineInv s :=
  ⟨hpout, hcur, fun h => absurd h hr, fun _ _ => hv⟩

theorem machineInv_retireSource {s : State} (hi : MachineInv s) : MachineInv (retireSource s) := by
  unfold retireSource; split <;> exact hi

/-- R112 to R117, R131, R132: a phase keeps the invariant. INIT makes the check that the later phases rest on. -/
theorem exec_phase_keeps_machineInv {s t : State} (hi : MachineInv s) (h : exec s.ph.instr s = .next t) :
    MachineInv t := by
  obtain ⟨hpout, hcur, -, hchecked⟩ := hi
  cases hp : s.ph <;> rw [hp] at h hchecked
  case init =>
    obtain ⟨hv, rfl⟩ | ⟨d, hd, rfl⟩ := execInit_cases h
    · exact machineInv_of_checked hv nofun hpout (Nat.zero_le 13)
    · exact ⟨hpout, hcur, fun _ => ⟨d, hd, rfl⟩, fun _ hr => absurd rfl hr⟩
  case emitv =>
    obtain ⟨e, -, rfl⟩ := execEmitv_cases h
    exact machineInv_of_checked (hchecked nofun nofun) nofun hpout hcur
  case emitp =>
    obtain ⟨e, -, rfl⟩ := execEmitp_cases h
    exact machineInv_of_checked (hchecked nofun nofun) nofun (poutOf_reserved _) hcur
  case load =>
    obtain ⟨e, -, rfl⟩ := execLoad_cases h
    exact machineInv_of_checked (hchecked nofun nofun) nofun hpout hcur
  case wait =>
    obtain ⟨-, rfl⟩ | ⟨-, rfl⟩ := execWait_cases h
    · exact machineInv_of_checked (hchecked nofun nofun) nofun hpout hcur
    · exact machineInv_of_checked (hchecked nofun nofun) (by simp [hp]) hpout hcur
  case sample =>
    have hv := hchecked nofun nofun
    rw [execSample_cases h]
    exact machineInv_of_checked (by simpa using hv) nofun (by simpa [PoutWf] using hpout) (by simpa [CurNamed] using hcur)
  case advance =>
    have hv := hchecked nofun nofun
    obtain ⟨e, n, he, hn, rfl⟩ := execAdvance_cases h
    exact machineInv_of_checked hv nofun hpout (entryNext_le_of_validate hv he hn)
  case refused => exact absurd h (exec_refused_ne_next s t)

/-- R111: so does a whole iteration on the entry of the current state. -/
theorem execState_keeps_machineInv {s t : State} {e : Entry} (hv : validate s.table = none)
    (he : tableRead s.table s.cur = some e) (h : execState e s = .next t) : MachineInv t := by
  obtain ⟨n, hn, rfl⟩ := execState_cases h
  have hpout : PoutWf (portReadIn (showAndHold e s)) := by
    simpa [PoutWf, showAndHold] using poutOf_reserved e.p.mask
  exact machineInv_of_checked (by simpa [showAndHold] using hv) nofun hpout (entryNext_le_of_validate hv he hn)

/-- R140 to R142: so does a port operation by itself, in any phase. -/
theorem exec_port_keeps_machineInv {sel : BitVec 3} {data : BitVec 6} {i : Instr} {s t : State}
    (hd : decode (.port sel data) = .ok i) (hi : MachineInv s) (h : exec i s = .next t) : MachineInv t := by
  obtain ⟨hpout, hcur, hphase⟩ := hi
  obtain ⟨m, rfl⟩ | ⟨m, rfl⟩ | rfl := exec_port_cases hd h
  · exact ⟨hpout, hcur, hphase⟩
  · exact ⟨poutOf_reserved m, hcur, hphase⟩
  · simpa [MachineInv, PoutWf, CurNamed] using ⟨hpout, hcur, hphase⟩

/-- Settles O45: a RESET starts the invariant afresh; otherwise the step is a phase, an iteration at EMITV, which runs on a
checked table, or a port operation. -/
theorem stepKeepsMachineInv : Obligations.StepKeepsMachineInv := by
  intro s t hi hs
  obtain ⟨-, rfl⟩ | ⟨-, i, hf, hx⟩ := step_next_cases hs
  · exact machineInv_resetWith _ _ _
  obtain ⟨hsrc, rfl⟩ | ⟨hsrc, hp, e, he, rfl⟩ | ⟨hsrc, -, rfl⟩ | ⟨sel, data, -, hd⟩ := fetch_cases hf
  · rw [retireSource_of_phase hsrc] at hx
    exact exec_phase_keeps_machineInv hi hx
  · obtain ⟨-, -, -, hchecked⟩ := hi
    rw [retireSource_of_iteration hsrc] at hx
    exact execState_keeps_machineInv (hchecked (by simp [hp]) (by simp [hp])) he hx
  · rw [retireSource_of_iteration hsrc] at hx
    exact exec_phase_keeps_machineInv hi hx
  · exact exec_port_keeps_machineInv hd (machineInv_retireSource hi) hx

end Sys2Proof.Machine

/-! ## Proofs: the table memory (20_memory.md) -/

namespace Sys2Proof.Machine

/-- Settles O32, from what every operation leaves of the table and, for a RESET, from what the event leaves of it. -/
theorem noStepWritesTheTable : Obligations.NoStepWritesTheTable := fun _ _ => step_table

/-! ### No entry, no default -/

section NoEntry

variable {s : State} (hnone : tableRead s.table s.cur = none)
include hnone

theorem execEmitv_of_noEntry : execEmitv s = .fault (.noEntry s.cur) := by rw [execEmitv, hnone]

theorem execEmitp_of_noEntry : execEmitp s = .fault (.noEntry s.cur) := by rw [execEmitp, hnone]

theorem execLoad_of_noEntry : execLoad s = .fault (.noEntry s.cur) := by rw [execLoad, hnone]

theorem execAdvance_of_noEntry : execAdvance s = .fault (.noEntry s.cur) := by rw [execAdvance, hnone]

/-- R51, the four phases that read `TABLE[CUR]`. -/
theorem exec_phase_of_noEntry (hp : s.ph = .emitv ∨ s.ph = .emitp ∨ s.ph = .load ∨ s.ph = .advance) :
    exec s.ph.instr s = .fault (.noEntry s.cur) := by
  obtain hp | hp | hp | hp := hp <;> rw [hp]
  · exact execEmitv_of_noEntry hnone
  · exact execEmitp_of_noEntry hnone
  · exact execLoad_of_noEntry hnone
  · exact execAdvance_of_noEntry hnone

/-- At EMITV the iteration is the entry, so without one there is nothing to perform. -/
theorem fetch_iteration_of_noEntry (hsrc : s.source = .iteration) (hp : s.ph = .emitv) :
    fetch s = .error (.noEntry s.cur) := by
  simp [fetch, hsrc, hp, hnone]

end NoEntry

theorem fetch_iteration_of_ne_emitv {s : State} (hsrc : s.source = .iteration) (hp : s.ph ≠ .emitv) :
    fetch s = .ok s.ph.instr := by
  -- `hp` rules out the match's first arm: the equation of its second one takes it from the context.
  simp only [fetch, hsrc, Phase.ofCode_code]

theorem step_of_fetch_ok {s : State} {i : Instr} (hr : s.resetPending = false) (hf : fetch s = .ok i) :
    step s = exec i (retireSource s) := by
  simp [step, hr, hf]

theorem step_of_fetch_error {s : State} {f : Fault} (hr : s.resetPending = false) (hf : fetch s = .error f) :
    step s = .fault f := by
  simp [step, hr, hf]

/-- Settles O27: above 13 GET answers nothing, so the operations stop. The engine's step is one of them; an iteration stops
at EMITV already in the choice of its operation, and elsewhere is the phase. -/
theorem noEntryNoDefault : Obligations.NoEntryNoDefault := by
  intro s hcur
  have hnone := tableRead_none_of_lt s.table s.cur hcur
  refine ⟨⟨execEmitv_of_noEntry hnone, execEmitp_of_noEntry hnone, execLoad_of_noEntry hnone,
    execAdvance_of_noEntry hnone⟩, ?engine, ?iteration⟩
  case engine =>
    intro hE hp
    rw [step_of_engine hE]
    exact exec_phase_of_noEntry hnone hp
  case iteration =>
    intro hr hsrc hp
    by_cases hv : s.ph = .emitv
    · exact step_of_fetch_error hr (fetch_iteration_of_noEntry hnone hsrc hv)
    · rw [step_of_fetch_ok hr (fetch_iteration_of_ne_emitv hsrc hv), retireSource_of_iteration hsrc]
      exact exec_phase_of_noEntry hnone hp

end Sys2Proof.Machine

/-! ## Proofs: the words (30_encoding.md) -/

namespace Sys2Proof

/-! ### Phase codes -/

@[simp] theorem Phase.code_ofCode : ∀ c : BitVec 3, (Phase.ofCode c).code = c := by decide

theorem Phase.encode_instr (p : Phase) : encode p.instr = .ph p.code := by cases p <;> rfl

theorem Phase.decode_code (p : Phase) : decode (.ph p.code) = .ok p.instr := by
  rw [decode, Machine.Phase.ofCode_code]

theorem Phase.wf_instr (p : Phase) : p.instr.wf = true := by cases p <;> rfl

/-- Settles O1. -/
theorem phaseCodesNameThePhases : Obligations.PhaseCodesNameThePhases :=
  ⟨fun p => ⟨Machine.Phase.ofCode_code p, p.decode_code, p.encode_instr⟩, Phase.code_ofCode,
    rfl, rfl, rfl, rfl, rfl, rfl, rfl, rfl⟩

/-! ### Port words -/

/-- A pedestrian mask travels on the four low data lines, and the two high ones are then 0. -/
theorem extractLsb'_zeroExtend_pmask (m : PMask) :
    (m.zeroExtend 6).extractLsb' 4 2 = 0 ∧ (m.zeroExtend 6).extractLsb' 0 4 = m := by
  constructor <;> ext k hk
  · simp
  · simp [hk, show k < 6 by omega]

/-- Data lines whose two high ones are 0 carry the mask on the four low ones and nothing else. -/
theorem zeroExtend_extractLsb'_data {data : BitVec 6} (h : data.extractLsb' 4 2 = 0) :
    (data.extractLsb' 0 4).zeroExtend 6 = data := by
  have hhigh : (data.extractLsb' 4 2).toNat = 0 := congrArg BitVec.toNat h
  apply BitVec.eq_of_toNat_eq
  simp only [BitVec.extractLsb'_toNat, BitVec.toNat_setWidth, Nat.shiftRight_eq_div_pow] at hhigh ⊢
  omega

theorem decode_wrv_word (m : VMask) : decode (.port 0b100 m) = .ok (.wrv m) := rfl

theorem decode_wrp_word (m : PMask) : decode (.port 0b101 (m.zeroExtend 6)) = .ok (.wrp m) := by
  obtain ⟨hhigh, hlow⟩ := extractLsb'_zeroExtend_pmask m
  calc decode (.port 0b101 (m.zeroExtend 6))
    _ = .ok (.wrp ((m.zeroExtend 6).extractLsb' 0 4)) := if_pos hhigh
    _ = .ok (.wrp m) := by rw [hlow]

theorem decode_rdin_word : decode (.port 0b010 0) = .ok .rdin := rfl

/-- R80 (e): the selectors left over are the ones the decoder's last branch takes. -/
theorem decode_port_selectsNothing (sel : BitVec 3) (data : BitVec 6) (hwrv : sel ≠ 0b100) (hwrp : sel ≠ 0b101)
    (hrdin : sel ≠ 0b010) : decode (.port sel data) = .error (.selectsNothing sel) := by
  simp only [decode, decodePort]
  split
  case h_1 h => exact absurd (BitVec.eq_of_toNat_eq h) hwrv
  case h_2 h => exact absurd (BitVec.eq_of_toNat_eq h) hwrp
  case h_3 h => exact absurd (BitVec.eq_of_toNat_eq h) hrdin
  case h_4 => rfl

/-- A port word that decodes is the word of its operation: the data lines the operand does not have are 0. -/
theorem encode_of_decode_port {sel : BitVec 3} {data : BitVec 6} {i : Instr} (h : decode (.port sel data) = .ok i) :
    encode i = .port sel data := by
  simp only [decode, decodePort] at h
  split at h
  case h_1 hsel =>
    cases h
    rw [encode, ← BitVec.eq_of_toNat_eq (y := 0b100) hsel]
  case h_2 hsel =>
    split at h <;> cases h
    next hhigh => rw [encode, zeroExtend_extractLsb'_data hhigh, ← BitVec.eq_of_toNat_eq (y := 0b101) hsel]
  case h_3 hsel =>
    split at h <;> cases h
    next hdata => rw [encode, hdata, ← BitVec.eq_of_toNat_eq (y := 0b010) hsel]
  case h_4 => cases h

/-- Settles O2. -/
theorem portSelectorsSelectThreeOperations : Obligations.PortSelectorsSelectThreeOperations :=
  ⟨rfl, rfl, rfl, decode_wrv_word, decode_wrp_word, decode_rdin_word, decode_port_selectsNothing⟩

/-! ### Entry words -/

theorem Entry.targetsValid_iff (e : Entry) : e.targetsValid = true ↔ ∀ n ∈ e.t, n.toNat ≤ 13 := by
  simp [Entry.targetsValid, Nat.lt_succ_iff]

theorem Entry.reservedZero_iff (w : BitVec 50) :
    Entry.reservedZero w = true ↔ w.getLsbD 6 = false ∧ w.getLsbD 8 = false := by
  simp [Entry.reservedZero]

/-- The decoder accepts the well-formed words of R76, and reads the record off them. -/
theorem decode_entry_eq_ok_iff (w : BitVec 50) (i : Instr) :
    decode (.entry w) = .ok i ↔
      Entry.reservedZero w = true ∧ (Entry.unpack w).targetsValid = true ∧ i = .state (Entry.unpack w) := by
  simp only [decode, decodeEntry]
  by_cases hres : Entry.reservedZero w = true
  · by_cases htar : (Entry.unpack w).targetsValid = true <;> simp [hres, htar, eq_comm]
  · simp [hres]

/-- The record of a word has its eight transitions in the order of their fields. -/
theorem Entry.unpack_t_getElem? (w : BitVec 50) {i : Nat} (hi : i < 8) :
    (Entry.unpack w).t[i]? = some (Entry.targetField w i) := by
  have hmap : (Entry.unpack w).t = (List.range 8).map (Entry.targetField w) := rfl
  rw [hmap, List.getElem?_map, List.getElem?_range hi, Option.map_some]

/-- The bits of the pedestrian mask that a word holds: bits 7 and 9 of the word, and two zeros. -/
theorem Entry.unpack_p_mask_bits (w : BitVec 50) :
    (Entry.unpack w).p.mask.getLsbD 1 = w.getLsbD 7 ∧ (Entry.unpack w).p.mask.getLsbD 3 = w.getLsbD 9 ∧
      (Entry.unpack w).p.mask.getLsbD 0 = false ∧ (Entry.unpack w).p.mask.getLsbD 2 = false := by
  obtain ⟨h3, h1, h2, h0⟩ := (Entry.unpack w).p.mask_bits
  refine ⟨h1.trans ?_, h3.trans ?_, h0, h2⟩ <;> simp [Entry.unpack, PPattern.ofMask]

/-- Settles O3, a field at a time. -/
theorem entryWordFields : Obligations.EntryWordFields := by
  refine ⟨fun w => ⟨?v, Entry.unpack_p_mask_bits w, ?d, rfl, ?t⟩, ?wf⟩
  case v =>
    intro k hk
    simp [Entry.unpack, hk]
  case d =>
    intro k hk
    simp [Entry.unpack, hk]
  case t =>
    intro i hi
    refine ⟨_, Entry.unpack_t_getElem? w hi, fun k hk => ?_⟩
    simp [Entry.targetField, hk]
  case wf =>
    intro w
    rw [decode_entry_eq_ok_iff, Entry.reservedZero_iff, Entry.targetsValid_iff]
    simp [and_assoc]

/-! ### The round trip -/

/-- A well-formed entry is what its word holds (R76), so its word passes both tests of the decoder. -/
theorem decode_pack {e : Entry} (h : e.wf = true) : decode (.entry e.pack) = .ok (.state e) := by
  obtain ⟨height, htar⟩ := Bool.and_eq_true_iff.mp h
  have hunpack := e.unpack_pack height
  exact (decode_entry_eq_ok_iff _ _).mpr ⟨e.pack_reservedZero, hunpack.symm ▸ htar, by rw [hunpack]⟩

/-- Settles O4, one case for each operation: a phase by its code, a port operation by its selector, an entry by its word. -/
theorem decodeOfEncode : Obligations.DecodeOfEncode := by
  intro i hwf
  cases i with
  | init => exact Phase.decode_code .init
  | emitv => exact Phase.decode_code .emitv
  | emitp => exact Phase.decode_code .emitp
  | load => exact Phase.decode_code .load
  | wait => exact Phase.decode_code .wait
  | sample => exact Phase.decode_code .sample
  | advance => exact Phase.decode_code .advance
  | refused => exact Phase.decode_code .refused
  | wrv m => exact decode_wrv_word m
  | wrp m => exact decode_wrp_word m
  | rdin => exact decode_rdin_word
  | state e => exact decode_pack hwf

/-- Settles O5, one case for each place a word can stand in. -/
theorem encodeOfDecode : Obligations.EncodeOfDecode := by
  intro c i h
  cases c with
  | ph c =>
    obtain rfl : (Phase.ofCode c).instr = i := Except.ok.inj h
    exact ⟨Phase.wf_instr _, by rw [Phase.encode_instr, Phase.code_ofCode]⟩
  | port sel data =>
    refine ⟨?_, encode_of_decode_port h⟩
    obtain ⟨m, rfl⟩ | ⟨m, rfl⟩ | rfl := Machine.decode_port_cases h <;> rfl
  | entry w =>
    obtain ⟨hres, htar, rfl⟩ := (decode_entry_eq_ok_iff w i).mp h
    exact ⟨htar, by rw [encode, Entry.pack_unpack w hres]⟩

/-- Settles O6 by running the decoder on each word. -/
theorem wordsOfTheSpecDecode : Obligations.WordsOfTheSpecDecode :=
  ⟨rfl, rfl, rfl, rfl, rfl, rfl, rfl⟩

end Sys2Proof

namespace Sys2Proof.Machine

/-! ### Sensors and lamps -/

/-- The three levels stand in a sample at the bits of their sensors (R70). -/
theorem senses_sampleOf (ped ns ew : Bool) :
    senses (sampleOf ped ns ew) .pedestrian = ped ∧ senses (sampleOf ped ns ew) .nsCar = ns ∧
      senses (sampleOf ped ns ew) .ewCar = ew := by
  revert ped ns ew
  decide

theorem sampleOf_senses : ∀ i : Sample, sampleOf (senses i .pedestrian) (senses i .nsCar) (senses i .ewCar) = i := by
  decide

/-- R73, a vehicle lamp at a time. -/
theorem vLit_pattern_iff (k : VLamp) :
    (vLit vAllRed k = true ↔ k = .nsRed ∨ k = .ewRed) ∧ (vLit vNsGreen k = true ↔ k = .nsGreen ∨ k = .ewRed) ∧
      (vLit vNsYellow k = true ↔ k = .nsYellow ∨ k = .ewRed) ∧ (vLit vEwGreen k = true ↔ k = .ewGreen ∨ k = .nsRed) ∧
      (vLit vEwYellow k = true ↔ k = .ewYellow ∨ k = .nsRed) := by
  cases k <;> decide

/-- R73, a pedestrian lamp at a time. -/
theorem pLit_pattern_iff (k : PLamp) :
    (pLit pDont k = true ↔ k = .dontWalk) ∧ (pLit pWalk k = true ↔ k = .walk) ∧ pLit pOff k = false := by
  cases k <;> decide

/-- R72: the masks of the four patterns are the four legal values. -/
theorem exists_mask_eq_iff (m : PMask) :
    (∃ p : PPattern, p.mask = m) ↔ m = 0b0000 ∨ m = 0b0010 ∨ m = 0b1000 ∨ m = 0b1010 := by
  constructor
  · rintro ⟨⟨dontWalk, walk⟩, rfl⟩
    cases dontWalk <;> cases walk <;> decide
  · rintro (rfl | rfl | rfl | rfl)
    exacts [⟨⟨false, false⟩, rfl⟩, ⟨⟨true, false⟩, rfl⟩, ⟨⟨false, true⟩, rfl⟩, ⟨⟨true, true⟩, rfl⟩]

/-- Settles O7; the bits of an entry's pedestrian mask are those of its pattern. -/
theorem bitsOfSensorsAndLamps : Obligations.BitsOfSensorsAndLamps := by
  refine ⟨senses_sampleOf, sampleOf_senses, vLit_pattern_iff, pLit_pattern_iff, fun e => ?_, exists_mask_eq_iff⟩
  obtain ⟨hwalk, hdont, h2, h0⟩ := e.p.mask_bits
  exact ⟨hdont, hwalk, h0, h2⟩

end Sys2Proof.Machine

/-! ## Proofs: the state table (40_state_table.md) -/

namespace Sys2Proof.Machine

/-! ### NEXT and its flat address -/

theorem tableNext_of_tableRead {tbl : Table} {s : StateId} {e : Entry} (he : tableRead tbl s = some e)
    (i : Sample) : tableNext tbl s i = entryNext e i := by
  rw [tableNext, he]

/-- R94, R106: on a checked table NEXT leads from states to states. -/
theorem exists_tableNext_of_validate {tbl : Table} {s : StateId} (hv : validate tbl = none) (hs : s.toNat ≤ 13)
    (i : Sample) : ∃ n, tableNext tbl s i = some n ∧ n.toNat ≤ 13 := by
  obtain ⟨e, he⟩ := tableRead_some_of_le tbl s hs
  obtain ⟨height, -⟩ := entry_of_validate hv he
  obtain ⟨n, hn⟩ := Option.isSome_iff_exists.mp ((entryNext_isSome_iff e i).mpr height)
  exact ⟨n, (tableNext_of_tableRead he i).trans hn, entryNext_le_of_validate hv he hn⟩

theorem flatAddress_toNat (s : StateId) (i : Sample) : (flatAddress s i).toNat = 8 * s.toNat + i.toNat := by
  rw [flatAddress, BitVec.toNat_append, ← Nat.shiftLeft_add_eq_or_of_lt i.isLt, Nat.shiftLeft_eq]
  omega

/-- R52: the two fields of a flat address are the state and the sample it was put together from. -/
theorem flatRead_flatAddress (tbl : Table) (s : StateId) (i : Sample) :
    flatRead tbl (flatAddress s i) = tableNext tbl s i := by
  have hs : (flatAddress s i).extractLsb' 3 4 = s := by
    apply BitVec.eq_of_toNat_eq
    rw [BitVec.extractLsb'_toNat, flatAddress_toNat, Nat.shiftRight_eq_div_pow]
    omega
  have hi : (flatAddress s i).extractLsb' 0 3 = i := by
    apply BitVec.eq_of_toNat_eq
    rw [BitVec.extractLsb'_toNat, flatAddress_toNat, Nat.shiftRight_eq_div_pow]
    omega
  rw [flatRead, hs, hi]

/-- Settles O29. -/
theorem nextIsTheSelectedTransition : Obligations.NextIsTheSelectedTransition := by
  refine ⟨entryNext_eq_getElem?, fun tbl s e i he => tableNext_of_tableRead he i,
    fun tbl s i hv hs => exists_tableNext_of_validate hv hs i, flatRead_flatAddress, ?above, flatAddress_toNat⟩
  case above =>
    intro tbl s i hs
    rw [flatRead_flatAddress, tableNext, tableRead_none_of_lt tbl s hs]

/-! ### The check -/

/-- The entry in place `k` of the scan is the one GET reads for identifier `k`. -/
theorem tableRead_ofNat_of_getElem? {tbl : Table} {k : Nat} {e : Entry} (h : (tableEntries tbl)[k]? = some e) :
    k ≤ 13 ∧ tableRead tbl (BitVec.ofNat 4 k) = some e := by
  obtain ⟨hk, -⟩ := List.getElem?_eq_some_iff.mp h
  change k < 14 at hk
  rw [tableRead_eq_getElem?, BitVec.toNat_ofNat, Nat.mod_eq_of_lt (by omega)]
  exact ⟨by omega, h⟩

/-- Settles O30: the entries the scan goes through are those that GET answers. -/
theorem validateAcceptsExactlyTheClosedTables : Obligations.ValidateAcceptsExactlyTheClosedTables := by
  intro tbl
  constructor
  · exact fun hv s e he => entry_of_validate hv he
  · intro hclosed
    refine (scanEntries_eq_none_iff 0 _).mpr fun e he => ?_
    obtain ⟨k, hk⟩ := List.mem_iff_getElem?.mp he
    exact hclosed _ e (tableRead_ofNat_of_getElem? hk).2

/-- A defect among the targets is the first identifier above 13 (R106). -/
theorem scanTargets_eq_some {s i : Nat} {l : List StateId} {d : Defect} (h : scanTargets s i l = some d) :
    ∃ j n, d = ⟨.danglingTarget, s, i + j⟩ ∧ l[j]? = some n ∧ 13 < n.toNat ∧
      ∀ k m, k < j → l[k]? = some m → m.toNat ≤ 13 := by
  induction l generalizing i with
  | nil => cases h
  | cons n rest ih =>
    rw [scanTargets] at h
    split at h
    · next hn =>
      cases h
      exact ⟨0, n, rfl, rfl, hn, nofun⟩
    · next hn =>
      obtain ⟨j, m, rfl, hj, hm, hbefore⟩ := ih h
      refine ⟨j + 1, m, by rw [Nat.add_right_comm, Nat.add_assoc], hj, hm, fun k q hk hq => ?_⟩
      cases k with
      | zero =>
        cases hq
        omega
      | succ k => exact hbefore k q (by omega) hq

/-- A defect among the entries is that of the first entry that does not pass (R106). -/
theorem scanEntries_eq_some {s : Nat} {l : List Entry} {d : Defect} (h : scanEntries s l = some d) :
    ∃ j e, l[j]? = some e ∧ checkEntry (s + j) e = some d ∧
      ∀ k f, k < j → l[k]? = some f → f.t.length = 8 ∧ ∀ n ∈ f.t, n.toNat ≤ 13 := by
  induction l generalizing s with
  | nil => cases h
  | cons e rest ih =>
    rw [scanEntries] at h
    split at h
    · next d' hd =>
      cases h
      exact ⟨0, e, rfl, hd, nofun⟩
    · next hnone =>
      obtain ⟨j, f, hj, hf, hbefore⟩ := ih h
      refine ⟨j + 1, f, hj, by rwa [Nat.add_right_comm, Nat.add_assoc] at hf, fun k q hk hq => ?_⟩
      cases k with
      | zero =>
        cases hq
        exact (checkEntry_eq_none_iff s e).mp hnone
      | succ k => exact hbefore k q (by omega) hq

/-- What the check of one entry reports (R151): the count when it is not eight, else the first dangling target. -/
theorem checkEntry_eq_some {s : Nat} {e : Entry} {d : Defect} (h : checkEntry s e = some d) :
    (e.t.length ≠ 8 ∧ d = ⟨.missingEntry, s, e.t.length⟩) ∨
    (e.t.length = 8 ∧ ∃ j n, d = ⟨.danglingTarget, s, j⟩ ∧ e.t[j]? = some n ∧ 13 < n.toNat ∧
      ∀ k m, k < j → e.t[k]? = some m → m.toNat ≤ 13) := by
  rw [checkEntry] at h
  split at h
  · next height =>
    obtain ⟨j, n, hd, hrest⟩ := scanTargets_eq_some h
    exact .inr ⟨height, j, n, by rw [hd, Nat.zero_add], hrest⟩
  · next hne => exact .inl ⟨hne, (Option.some.inj h).symm⟩

/-- Settles O31: the place of the first entry that does not pass is the state reported, and the check of that entry tells the
cause. -/
theorem validateReportsTheFirstDefect : Obligations.ValidateReportsTheFirstDefect := by
  intro tbl d h
  obtain ⟨j, e, hj, hcheck, hbefore⟩ := scanEntries_eq_some h
  rw [Nat.zero_add] at hcheck
  obtain ⟨hle, hread⟩ := tableRead_ofNat_of_getElem? hj
  have hlower : ∀ (q : StateId) f, q.toNat < j → tableRead tbl q = some f →
      f.t.length = 8 ∧ ∀ n ∈ f.t, n.toNat ≤ 13 :=
    fun q f hq hf => hbefore q.toNat f hq ((tableRead_eq_getElem? tbl q).symm.trans hf)
  obtain ⟨hne, rfl⟩ | ⟨height, i, n, rfl, hn, hlt, hfirst⟩ := checkEntry_eq_some hcheck
  · exact ⟨e, hread, hle, hlower, .inl ⟨rfl, rfl, hne, rfl⟩⟩
  · exact ⟨e, hread, hle, hlower, .inr ⟨rfl, rfl, height, ⟨n, hn, hlt⟩, hfirst⟩⟩

/-! ### Paths -/

section Paths

variable {tbl : Table} {s c : StateId}

theorem path_cons_of_tableNext {i : Sample} {n : StateId} (hn : tableNext tbl s i = some n) (rest : List Sample) :
    path tbl s (i :: rest) = path tbl n rest := by
  rw [path, hn]

theorem path_cons_eq_some {i : Sample} {rest : List Sample} (h : path tbl s (i :: rest) = some c) :
    ∃ n, tableNext tbl s i = some n ∧ path tbl n rest = some c := by
  cases hn : tableNext tbl s i with
  | some n => exact ⟨n, rfl, by rwa [path_cons_of_tableNext hn] at h⟩
  | none =>
    rw [path, hn] at h
    cases h

theorem path_append {ins : List Sample} (h : path tbl s ins = some c) (rest : List Sample) :
    path tbl s (ins ++ rest) = path tbl c rest := by
  induction ins generalizing s with
  | nil =>
    cases h
    rfl
  | cons i ins ih =>
    obtain ⟨n, hn, hp⟩ := path_cons_eq_some h
    rw [List.cons_append, path_cons_of_tableNext hn, ih hp]

/-- What every transition keeps, every path keeps. -/
theorem path_keep {P : StateId → Prop} (hnext : ∀ s i n, P s → tableNext tbl s i = some n → P n) {ins : List Sample}
    (hs : P s) (h : path tbl s ins = some c) : P c := by
  induction ins generalizing s with
  | nil =>
    cases h
    exact hs
  | cons i ins ih =>
    obtain ⟨n, hn, hp⟩ := path_cons_eq_some h
    exact ih (hnext s i n hs hn) hp

theorem reachable_start : Reachable tbl Config.start := ⟨[], rfl⟩

theorem reachable_of_path {ins : List Sample} (hs : Reachable tbl s) (h : path tbl s ins = some c) : Reachable tbl c := by
  obtain ⟨before, hbefore⟩ := hs
  exact ⟨before ++ ins, (path_append hbefore ins).trans h⟩

theorem reachable_of_tableNext {i : Sample} (hs : Reachable tbl s) (h : tableNext tbl s i = some c) : Reachable tbl c :=
  reachable_of_path hs (path_cons_of_tableNext h [])

end Paths

/-! ### Both directions are served -/

/-- With both directions asking and no pedestrian at every sample, `d`'s green comes up after more than `n` samples. -/
def ServedAfter (tbl : Table) (d : Direction) (g : StateId) (n : Nat) : Prop :=
  ∃ k c, n < k ∧ path tbl g (List.replicate k 0b011) = some c ∧ EntryHas tbl c fun e => vLit e.v d.green = true

section Turns

variable {tbl : Table} {r : Roles} {d next : Direction} {g : StateId}

/-- What is served later from a state on the way is served later still from the start of the way. -/
theorem servedAfter_of_path {k m n : Nat} {c : StateId} (hp : path tbl g (List.replicate k 0b011) = some c)
    (h : ServedAfter tbl d c n) (hm : m ≤ k + n) : ServedAfter tbl d g m := by
  obtain ⟨j, q, hj, hq, hgreen⟩ := h
  exact ⟨k + j, q, by omega, by rw [List.replicate_add, path_append hp, hq], hgreen⟩

/-- A turn that passes from `d` to `next` takes at least one sample, as `d`'s green is not `next`'s. -/
theorem servedAfter_of_turnPasses (hturn : TurnPasses tbl r d next) (hg : Reachable tbl g)
    (hgreen : EntryHas tbl g fun e => vLit e.v d.green = true)
    (hdark : ¬ EntryHas tbl g fun e => vLit e.v next.green = true) : ServedAfter tbl next g 0 := by
  obtain ⟨m, b, -, hm, -, k, c, hk, hc, -⟩ := hturn g hg hgreen
  have hp : path tbl g (List.replicate (m + k) 0b011) = some c := by rw [List.replicate_add, path_append hm, hk]
  refine ⟨m + k, c, Nat.pos_of_ne_zero fun h0 => hdark ?_, hp, hc⟩
  rw [h0] at hp
  cases hp
  exact hc

/-- Two turns bring the green back to `d`. -/
theorem servedAfter_both (hturn : TurnPasses tbl r d next) (hback : TurnPasses tbl r next d)
    (hexcl : ∀ s, Reachable tbl s →
      ¬ ((EntryHas tbl s fun e => vLit e.v d.green = true) ∧ EntryHas tbl s fun e => vLit e.v next.green = true))
    (hg : Reachable tbl g) (hgreen : EntryHas tbl g fun e => vLit e.v d.green = true) :
    ServedAfter tbl d g 0 ∧ ServedAfter tbl next g 0 := by
  obtain ⟨k, c, hk, hp, hc⟩ := servedAfter_of_turnPasses hturn hg hgreen fun h => hexcl g hg ⟨hgreen, h⟩
  have hcr := reachable_of_path hg hp
  have hd := servedAfter_of_turnPasses hback hcr hc fun h => hexcl c hcr ⟨h, hc⟩
  exact ⟨servedAfter_of_path hp hd (Nat.zero_le _), k, c, hk, hp, hc⟩

end Turns

theorem not_green_both_of_mutualExclusion {tbl : Table} (hx : MutualExclusion tbl) {s : StateId} (hs : Reachable tbl s) :
    ¬ (GreenNs tbl s ∧ GreenEw tbl s) := by
  rintro ⟨⟨e, he, hns⟩, f, hf, hew⟩
  cases he.symm.trans hf
  exact hx.1 s e hs he ⟨hns, hew⟩

/-- Settles O58, by induction on the number of samples to be passed: from any green both greens come up, and from the first of
them the rest of the samples is passed. -/
theorem bothDirectionsAreServedForEver : Obligations.BothDirectionsAreServedForEver := by
  intro tbl r hrr hx g hg hgreen n
  obtain ⟨-, -, hturn, hback⟩ := hrr
  have once : ∀ g, Reachable tbl g → GreenNs tbl g ∨ GreenEw tbl g →
      ServedAfter tbl dirNs g 0 ∧ ServedAfter tbl dirEw g 0 := by
    rintro g hg (hns | hew)
    · exact servedAfter_both hturn hback (fun s => not_green_both_of_mutualExclusion hx) hg hns
    · exact (servedAfter_both hback hturn (fun s hs h => not_green_both_of_mutualExclusion hx hs h.symm) hg hew).symm
  suffices ServedAfter tbl dirNs g n ∧ ServedAfter tbl dirEw g n from this
  induction n generalizing g with
  | zero => exact once g hg hgreen
  | succ n ih =>
    obtain ⟨⟨k, c, hk, hp, hc⟩, -⟩ := once g hg hgreen
    obtain ⟨hns, hew⟩ := ih c (reachable_of_path hg hp) (.inl hc)
    exact ⟨servedAfter_of_path hp hns (by omega), servedAfter_of_path hp hew (by omega)⟩

/-! ### `TABLE_REF` -/

/-- Samples that lead from START to a state of `TABLE_REF`; none are given for SouthStartY, 14 and 15. -/
def routeRef (s : StateId) : List Sample :=
  match s.toNat with
  | 1 => [0b010]
  | 3 => [0b010, 0b100]
  | 4 => [0b010, 0b100, 0]
  | 5 => [0b001]
  | 6 => [0b001, 0b100]
  | 7 => [0b001, 0b100, 0]
  | 8 => [0b001, 0b100, 0, 0]
  | 9 => [0b100]
  | 10 => [0b100, 0]
  | 11 => [0b100, 0, 0]
  | 12 => [0b100, 0, 0, 0]
  | 13 => [0b100, 0, 0, 0, 0]
  | _ => []

/-- R107 (b), (h): the transitions never lead into SouthStartY from elsewhere, and the routes lead everywhere else. -/
theorem reachable_tableRef_iff (s : StateId) : Reachable tableRef s ↔ s.toNat ≤ 13 ∧ s ≠ 2 := by
  constructor
  · rintro ⟨ins, h⟩
    have hnext : ∀ s i n, s.toNat ≤ 13 ∧ s ≠ 2 → tableNext tableRef s i = some n → n.toNat ≤ 13 ∧ n ≠ 2 := by decide
    exact path_keep (P := fun s => s.toNat ≤ 13 ∧ s ≠ 2) hnext (by decide) h
  · have hroute : ∀ s : StateId, s.toNat ≤ 13 ∧ s ≠ 2 → path tableRef Config.start (routeRef s) = some s := by decide
    exact fun hs => ⟨routeRef s, hroute s hs⟩

/-- Settles O34. -/
theorem referenceDeadStateUnreachable : Obligations.ReferenceDeadStateUnreachable :=
  ⟨fun h => ((reachable_tableRef_iff 2).mp h).2 rfl, fun s hs hne => (reachable_tableRef_iff s).mpr ⟨hs, hne⟩⟩

/-- An asking pedestrian brings every state of `TABLE_REF` but SouthStartY back to START. -/
theorem exists_path_to_start_tableRef :
    ∀ s : StateId, s.toNat ≤ 13 ∧ s ≠ 2 → ∃ k < 10, path tableRef s (List.replicate k 0b100) = some Config.start := by
  decide

/-- R107 (h): from START walk and both greens are one sample away. -/
theorem tableRef_policyLive : PolicyLive tableRef rolesRef := by
  refine ⟨fun s hs => ?_, 1, by decide⟩
  obtain ⟨k, -, hk⟩ := exists_path_to_start_tableRef s ((reachable_tableRef_iff s).mp hs)
  have hnext {i : Sample} {n : StateId} (h : tableNext tableRef Config.start i = some n) :
      path tableRef s (List.replicate k 0b100 ++ [i]) = some n :=
    (path_append hk [i]).trans (path_cons_of_tableNext h [])
  exact ⟨⟨_, hnext (i := 0b100) rfl⟩, ⟨_, 1, hnext (i := 0b010) rfl, (Tests.tableRef_greenNs 1).mpr (.inl rfl)⟩,
    ⟨_, 5, hnext (i := 0b001) rfl, (Tests.tableRef_greenEw 5).mpr (.inl rfl)⟩⟩

/-- R107 (a). -/
theorem tableRef_shaped : Shaped tableRef := by
  have hentries : ∀ e ∈ tableEntries tableRef, e.p.mask &&& 0b0101 = 0 ∧ 1 ≤ e.d.toNat ∧ e.t.length = 8 := by decide
  exact fun s e he => hentries e (mem_tableEntries_of_tableRead he)

theorem tableRef_closed : Closed tableRef := fun _ _ he => (entry_of_validate Tests.test_validate_ref he).2

/-- R107 (c). -/
theorem tableRef_startRule : StartRule tableRef rolesRef :=
  ⟨⟨_, rfl, by decide⟩, by decide, by decide, 1, by decide, (Tests.tableRef_greenNs 1).mpr (.inl rfl)⟩

/-- R107 (d). -/
theorem tableRef_pedestrianPriority : PedestrianPriority tableRef rolesRef := by
  unfold PedestrianPriority
  decide

/-- R107 (f): NS stays in GoS or goes to its yellow. -/
theorem tableRef_greenPhase_ns : GreenPhase tableRef rolesRef dirNs := by
  have hstay : ∀ i, senses i .ewCar = false → senses i .pedestrian = false → tableNext tableRef 1 i = some 1 := by decide
  have hgo : ∀ i, senses i .ewCar = true ∨ senses i .pedestrian = true → tableNext tableRef 1 i = some 3 := by decide
  have hgreen : EntryHas tableRef 1 fun e => vLit e.v .nsGreen = true := (Tests.tableRef_greenNs 1).mpr (.inl rfl)
  have hyellow : YellowPhase tableRef rolesRef dirNs 3 :=
    ⟨⟨_, rfl, by decide⟩, fun i => ⟨4, by decide, by revert i; decide⟩⟩
  exact ⟨1, hgreen, rfl, fun i hopp hped => ⟨1, hstay i hopp hped, hgreen⟩, fun i hi => ⟨3, hgo i hi, .inl hyellow⟩⟩

/-- R107 (f): EW stays in GoW or goes through WestStartY to its yellow. -/
theorem tableRef_greenPhase_ew : GreenPhase tableRef rolesRef dirEw := by
  have hstay : ∀ i, senses i .nsCar = false → senses i .pedestrian = false → tableNext tableRef 5 i = some 5 := by decide
  have hgo : ∀ i, senses i .nsCar = true ∨ senses i .pedestrian = true → tableNext tableRef 5 i = some 6 := by decide
  have hgreen : EntryHas tableRef 5 fun e => vLit e.v .ewGreen = true := (Tests.tableRef_greenEw 5).mpr (.inl rfl)
  have hyellow : YellowPhase tableRef rolesRef dirEw 7 :=
    ⟨⟨_, rfl, by decide⟩, fun i => ⟨8, by decide, by revert i; decide⟩⟩
  exact ⟨5, hgreen, rfl, fun i hopp hped => ⟨5, hstay i hopp hped, hgreen⟩,
    fun i hi => ⟨6, hgo i hi, .inr ⟨7, by decide, hyellow⟩⟩⟩

/-- R107 (b): SouthStartY leads to itself alone, and nothing else leads to it. -/
theorem tableRef_degenerate : Degenerate tableRef rolesRef := ⟨by decide, by decide, by decide, by decide⟩

/-- Settles O33, a rule at a time. -/
theorem referenceTableKeepsThePolicy : Obligations.ReferenceTableKeepsThePolicy :=
  ⟨Tests.test_validate_ref, tableRef_shaped, tableRef_closed, tableRef_startRule, Tests.tableRef_dark,
    Tests.test_pedestrian_sequence, tableRef_pedestrianPriority, Tests.tableRef_buffered, Tests.tableRef_roundRobin,
    ⟨tableRef_greenPhase_ns, tableRef_greenPhase_ew⟩, Tests.tableRef_excludes, tableRef_degenerate, tableRef_policyLive⟩

/-! ### Runs of the engine -/

theorem engine_resetWith (tbl : Table) (script : List Sample) (n : Nat) : Engine (State.resetWith tbl script n) :=
  ⟨rfl, rfl⟩

/-- A phase raises no RESET and leaves the source alone, so phases follow. -/
theorem step_keeps_engine {s t : State} (hE : Engine s) (hs : step s = .next t) : Engine t := by
  obtain ⟨-, h⟩ | ⟨-, h⟩ | ⟨-, h⟩ | ⟨-, h⟩ | ⟨-, h⟩ | ⟨-, h⟩ | ⟨-, h⟩ := engine_step_cases hE hs
  · obtain ⟨-, rfl⟩ | ⟨d, -, rfl⟩ := execInit_cases h <;> exact hE
  · obtain ⟨e, -, rfl⟩ := execEmitv_cases h
    exact hE
  · obtain ⟨e, -, rfl⟩ := execEmitp_cases h
    exact hE
  · obtain ⟨e, -, rfl⟩ := execLoad_cases h
    exact hE
  · obtain ⟨-, rfl⟩ | ⟨-, rfl⟩ := execWait_cases h <;> exact hE
  · rw [execSample_cases h]
    simpa [Engine] using hE
  · obtain ⟨e, n, -, -, rfl⟩ := execAdvance_cases h
    exact hE

theorem runs_table {k : Nat} {s t : State} (h : runs k s = .next t) : t.table = s.table :=
  runs_keep (P := fun u => u.table = s.table) (fun _ _ hu hs => (step_table hs).trans hu) k s t rfl h

/-- What every phase keeps, the engine's runs keep. -/
theorem engine_runs_keep {P : State → Prop} (hphase : ∀ s t, P s → exec s.ph.instr s = .next t → P t) {k : Nat}
    {s t : State} (hE : Engine s) (hs : P s) (h : runs k s = .next t) : P t := by
  have hstep : ∀ s t, Engine s ∧ P s → step s = .next t → Engine t ∧ P t := fun s t ⟨hE, hs⟩ hst =>
    ⟨step_keeps_engine hE hst, hphase s t hs ((step_of_engine hE).symm.trans hst)⟩
  exact (runs_keep hstep k s t ⟨hE, hs⟩ h).2

/-! ### The lamps are those of the current state -/

theorem lampsOfCur_iff_of_hold {s : State} (hp : HoldPhase s.ph) :
    LampsOfCur s ↔ EntryHas s.table s.cur fun e => s.vout = e.v ∧ s.pout = e.p.mask := by
  obtain hp | hp | hp | hp := hp <;> simp [LampsOfCur, hp]

/-- R119: EMITV and EMITP bring the lamps of `CUR`, the hold keeps them, and ADVANCE ends the claim. -/
theorem exec_phase_keeps_lampsOfCur {s t : State} (hi : LampsOfCur s) (h : exec s.ph.instr s = .next t) :
    LampsOfCur t := by
  unfold LampsOfCur at hi
  cases hp : s.ph <;> rw [hp] at h hi
  case init => obtain ⟨-, rfl⟩ | ⟨d, -, rfl⟩ := execInit_cases h <;> trivial
  case emitv =>
    obtain ⟨e, he, rfl⟩ := execEmitv_cases h
    exact ⟨e, he, rfl⟩
  case emitp =>
    obtain ⟨e, he, hv⟩ := hi
    obtain ⟨f, hf, rfl⟩ := execEmitp_cases h
    cases he.symm.trans hf
    exact ⟨e, he, hv, poutOf_mask e.p⟩
  case load =>
    obtain ⟨e, -, rfl⟩ := execLoad_cases h
    exact hi
  case wait =>
    obtain ⟨-, rfl⟩ | ⟨-, rfl⟩ := execWait_cases h
    · exact hi
    · exact (lampsOfCur_iff_of_hold (.inr (.inl hp))).mpr hi
  case sample =>
    rw [execSample_cases h]
    simpa [LampsOfCur] using hi
  case advance =>
    obtain ⟨e, n, -, -, rfl⟩ := execAdvance_cases h
    trivial
  case refused => exact absurd h (exec_refused_ne_next s t)

/-- Settles O48: the lamps right after reset are not those of a hold, and every phase keeps them with `CUR`. -/
theorem outputsDependOnTheStateOnly : Obligations.OutputsDependOnTheStateOnly := by
  intro tbl script n k s _ h hp
  have htable : s.table = tbl := runs_table h
  have hlamps : LampsOfCur s :=
    engine_runs_keep (fun _ _ => exec_phase_keeps_lampsOfCur) (engine_resetWith tbl script n) trivial h
  rw [← htable]
  exact (lampsOfCur_iff_of_hold hp).mp hlamps

/-- R110, R117: `CUR` starts at START and moves along the transitions. -/
theorem exec_phase_keeps_reachable {s t : State} (hi : Reachable s.table s.cur) (h : exec s.ph.instr s = .next t) :
    Reachable t.table t.cur := by
  cases hp : s.ph <;> rw [hp] at h
  case init =>
    obtain ⟨-, rfl⟩ | ⟨d, -, rfl⟩ := execInit_cases h
    · exact reachable_start
    · exact hi
  case emitv =>
    obtain ⟨e, -, rfl⟩ := execEmitv_cases h
    exact hi
  case emitp =>
    obtain ⟨e, -, rfl⟩ := execEmitp_cases h
    exact hi
  case load =>
    obtain ⟨e, -, rfl⟩ := execLoad_cases h
    exact hi
  case wait => obtain ⟨-, rfl⟩ | ⟨-, rfl⟩ := execWait_cases h <;> exact hi
  case sample =>
    rw [execSample_cases h]
    simpa using hi
  case advance =>
    obtain ⟨e, n, he, hn, rfl⟩ := execAdvance_cases h
    exact reachable_of_tableNext hi ((tableNext_of_tableRead he _).trans hn)
  case refused => exact absurd h (exec_refused_ne_next s t)

/-- Settles O49: the lamps are the masks of a reachable state's entry. -/
theorem holdsNeverShowAConflict : Obligations.HoldsNeverShowAConflict := by
  intro tbl script n k s hv hx h hp
  obtain ⟨hgreens, hwalk⟩ := hx
  obtain ⟨e, he, hvout, hpout⟩ := outputsDependOnTheStateOnly tbl script n k s hv h hp
  have hreach : Reachable s.table s.cur :=
    engine_runs_keep (fun _ _ => exec_phase_keeps_reachable) (engine_resetWith tbl script n) reachable_start h
  rw [runs_table h] at hreach
  rw [hvout, hpout]
  exact ⟨hgreens s.cur e hreach he, hwalk s.cur e he⟩

/-! ### Iterations -/

theorem runs_one (s : State) : runs 1 s = step s := by
  cases hs : step s with
  | next t => rw [runs_succ_of_next 0 hs, runs_zero]
  | fault f => exact runs_succ_of_fault 0 hs
  | refused r => exact runs_succ_of_refused 0 hs

/-- The engine's run goes on after a phase that answers. -/
theorem runs_succ_of_phase {s t : State} {p : Phase} (k : Nat) (hE : Engine s) (hp : s.ph = p)
    (h : exec p.instr s = .next t) : runs (k + 1) s = runs k t :=
  runs_succ_of_next k (by rw [step_of_engine hE, hp, h])

theorem cntDown_toNat {cnt : BitVec 8} (h : cnt ≠ 0) : (cntDown cnt).toNat + 1 = cnt.toNat := by
  unfold cntDown
  bv_omega

/-- One quantum and the wait for the rest are the wait (R130, R132). -/
theorem waitN_tick {s : State} (h : s.cnt ≠ 0) : waitN (tick s).cnt (tick s) = waitN s.cnt s := by
  have ht : s.t + 1 + (cntDown s.cnt).toNat = s.t + s.cnt.toNat := by rw [← cntDown_toNat h]; omega
  simp [waitN, tick, ht]

/-- R132: from `CNT` = `n` the wait takes `n` quanta and one step that ends it. -/
theorem runs_wait (n : Nat) {s : State} (hE : Engine s) (hp : s.ph = .wait) (hn : s.cnt.toNat = n) :
    runs (n + 1) s = .next (goTo .sample (waitN s.cnt s)) := by
  induction n generalizing s with
  | zero =>
    have hzero : s.cnt = 0 := BitVec.eq_of_toNat_eq hn
    rw [runs_succ_of_phase 0 hE hp (execWait_of_zero hzero), runs_zero]
    simp [goTo, waitN, hzero]
  | succ n ih =>
    have hne : s.cnt ≠ 0 := fun h => by simp [h] at hn
    have hdown := cntDown_toNat hne
    rw [runs_succ_of_phase (n + 1) hE hp (execWait_of_ne_zero hne), ih (s := tick s) hE hp (by rw [tick_cnt]; omega),
      waitN_tick hne]

section Iteration

variable {s : State} {e : Entry}

theorem execEmitv_of_entry (he : tableRead s.table s.cur = some e) :
    execEmitv s = .next (goTo .emitp (portWriteVout e.v s)) := by
  rw [execEmitv, he]

theorem execEmitp_of_entry (he : tableRead s.table s.cur = some e) :
    execEmitp s = .next (goTo .load (portWritePout e.p.mask s)) := by
  rw [execEmitp, he]

theorem execLoad_of_entry (he : tableRead s.table s.cur = some e) :
    execLoad s = .next (goTo .wait { s with cnt := countOf e.d }) := by
  rw [execLoad, he]

@[simp] theorem countOf_eq (d : Quanta) : countOf d = d := BitVec.setWidth_eq d

/-- R114, R115, R131, R132: both masks written and the wait ended, the machine stands at SAMPLE. -/
theorem runs_showAndHold (hE : Engine s) (hp : s.ph = .emitv) (he : tableRead s.table s.cur = some e) :
    runs (e.d.toNat + 4) s = .next (goTo .sample (showAndHold e s)) :=
  calc runs (e.d.toNat + 4) s
    _ = runs (e.d.toNat + 3) (goTo .emitp (portWriteVout e.v s)) := runs_succ_of_phase _ hE hp (execEmitv_of_entry he)
    _ = runs (e.d.toNat + 2) (goTo .load (portWritePout e.p.mask (portWriteVout e.v s))) :=
      runs_succ_of_phase _ hE rfl (execEmitp_of_entry he)
    _ = runs (e.d.toNat + 1) (goTo .wait { portWritePout e.p.mask (portWriteVout e.v s) with cnt := countOf e.d }) :=
      runs_succ_of_phase _ hE rfl (execLoad_of_entry he)
    _ = .next (goTo .sample (showAndHold e s)) := by
      rw [countOf_eq]
      exact runs_wait e.d.toNat hE rfl rfl

theorem portReadIn_script : (portReadIn s).script = s.script.drop 1 := by
  unfold portReadIn
  cases s.script <;> rfl

theorem portReadIn_goTo (p : Phase) : portReadIn (goTo p s) = goTo p (portReadIn s) := by
  unfold portReadIn
  rw [goTo_script]
  cases s.script <;> rfl

/-- R116, R117: SAMPLE and ADVANCE end the iteration. -/
theorem runs_sample_advance (hE : Engine s) (he : tableRead s.table s.cur = some e) :
    runs 2 (goTo .sample (showAndHold e s)) = execState e s :=
  calc runs 2 (goTo .sample (showAndHold e s))
    _ = runs 1 (goTo .advance { dropCount (portReadIn (goTo .sample (showAndHold e s))) with smp := envSample s }) :=
      runs_succ_of_phase 1 hE rfl rfl
    _ = execAdvance (goTo .advance { dropCount (goTo .sample (portReadIn (showAndHold e s))) with smp := envSample s }) := by
      rw [runs_one, portReadIn_goTo, step_of_engine]
      · rfl
      · simpa [Engine, showAndHold] using hE
    _ = execState e s := by
      have hread : tableRead (showAndHold e s).table s.cur = some e := he
      have hcur : (showAndHold e s).cur = s.cur := rfl
      have henv : envSample (showAndHold e s) = envSample s := rfl
      cases hn : entryNext e (envSample s) <;>
        simp [execAdvance, execState, hread, hcur, henv, hn, goTo, dropSample, dropCount]

/-- R111: an iteration is its phases, `D + 6` of them. -/
theorem runs_iteration (hE : Engine s) (hp : s.ph = .emitv) (he : tableRead s.table s.cur = some e) :
    runs (e.d.toNat + 6) s = execState e s := by
  rw [show e.d.toNat + 6 = (e.d.toNat + 4) + 2 by omega, runs_add 2 (runs_showAndHold hE hp he),
    runs_sample_advance hE he]

end Iteration

section Sums

variable {tbl : Table} {s n : StateId} {e : Entry} {i : Sample} (he : tableRead tbl s = some e)
  (hn : tableNext tbl s i = some n) (ins : List Sample)
include he hn

theorem stepCount_cons : stepCount tbl s (i :: ins) = (e.d.toNat + 6) + stepCount tbl n ins := by
  rw [stepCount, he, hn]

theorem holdSum_cons : holdSum tbl s (i :: ins) = e.d.toNat + holdSum tbl n ins := by
  rw [holdSum, he, hn]

end Sums

/-- What iterations on the samples `ins` make of an engine at EMITV (R111): the path, the time and the inputs used up. -/
structure Iterated (ins : List Sample) (s t : State) : Prop where
  run : runs (stepCount s.table s.cur ins) s = .next t
  engine : Engine t
  ph : t.ph = .emitv
  table : t.table = s.table
  path : path s.table s.cur ins = some t.cur
  script : t.script = s.script.drop ins.length
  time : t.t = s.t + holdSum s.table s.cur ins

theorem Iterated.nil {s : State} (hE : Engine s) (hp : s.ph = .emitv) : Iterated [] s s :=
  ⟨rfl, hE, hp, rfl, rfl, rfl, rfl⟩

/-- One iteration and then others. -/
theorem Iterated.cons {i : Sample} {ins : List Sample} {s u t : State} {e : Entry}
    (he : tableRead s.table s.cur = some e) (hone : Iterated [i] s u) (hrest : Iterated ins u t) :
    Iterated (i :: ins) s t := by
  obtain ⟨n, hn, hnil⟩ := path_cons_eq_some hone.path
  cases hnil
  obtain ⟨hrun₁, -, -, htable₁, -, hscript₁, htime₁⟩ := hone
  obtain ⟨hrun₂, hE, hp, htable₂, hpath, hscript₂, htime₂⟩ := hrest
  rw [htable₁] at hrun₂ hpath htime₂
  rw [stepCount_cons he hn] at hrun₁
  rw [holdSum_cons he hn] at htime₁
  refine ⟨?run, hE, hp, htable₂.trans htable₁, ?path, ?script, ?time⟩
  case run =>
    rw [stepCount_cons he hn, ← hrun₂]
    exact runs_add _ hrun₁
  case path => rw [path_cons_of_tableNext hn, hpath]
  case script => rw [hscript₂, hscript₁, List.drop_drop, List.length_singleton, List.length_cons, Nat.add_comm]
  case time =>
    rw [htime₂, htime₁, holdSum_cons he hn, Nat.add_assoc]
    rfl

/-- R111: an engine at EMITV iterates once, on the sample that the environment gives next. -/
theorem iterated_one {s : State} {e : Entry} {n : StateId} (hE : Engine s) (hp : s.ph = .emitv)
    (he : tableRead s.table s.cur = some e) (hn : entryNext e (envSample s) = some n) :
    ∃ t, Iterated [envSample s] s t ∧ t.cur = n := by
  have henv : entryNext e (envSample (showAndHold e s)) = some n := hn
  have hnext : tableNext s.table s.cur (envSample s) = some n := (tableNext_of_tableRead he _).trans hn
  refine ⟨goTo .emitv (dropSample { dropCount (portReadIn (showAndHold e s)) with cur := n }),
    ⟨?run, ?engine, rfl, ?table, path_cons_of_tableNext hnext [], ?script, ?time⟩, rfl⟩
  case run =>
    rw [stepCount_cons he hnext]
    refine (runs_iteration hE hp he).trans ?_
    rw [execState, henv]
  case engine => simpa [Engine, showAndHold] using hE
  case table => simp [showAndHold]
  case script => simp [portReadIn_script, showAndHold]
  case time =>
    rw [holdSum_cons he hnext]
    simp [holdSum, showAndHold]

/-- On a checked table an engine at EMITV iterates any number of times, whatever is sampled. -/
theorem exists_iterated (k : Nat) {s : State} (hv : validate s.table = none) (hE : Engine s) (hp : s.ph = .emitv)
    (hcur : s.cur.toNat ≤ 13) : ∃ ins t, ins.length = k ∧ Iterated ins s t := by
  induction k generalizing s with
  | zero => exact ⟨[], s, rfl, .nil hE hp⟩
  | succ k ih =>
    obtain ⟨e, he⟩ := tableRead_some_of_le s.table s.cur hcur
    obtain ⟨n, hn, hle⟩ := exists_tableNext_of_validate hv hcur (envSample s)
    obtain ⟨u, hone, rfl⟩ := iterated_one hE hp he ((tableNext_of_tableRead he _).symm.trans hn)
    obtain ⟨ins, t, hlen, hrest⟩ := ih (hone.table ▸ hv) hone.engine hone.ph hle
    exact ⟨envSample s :: ins, t, by rw [List.length_cons, hlen], hone.cons he hrest⟩

/-- Settles O53: five iterations, each of them to the one state that all samples lead to. -/
theorem pedestrianCycleLastsItsDurations : Obligations.PedestrianCycleLastsItsDurations := by
  intro s r ew e1 e2 e3 e4 hv hpath hE hp hcur hew he1 he2 he3 he4
  obtain ⟨hwalk, h1a, h1b, h2a, b, hb, h2b⟩ := hpath
  obtain ⟨ins, t, hlen, hit⟩ := exists_iterated 5 hv hE hp (hcur ▸ le_of_tableRead_some hew)
  match ins, hlen with
  | [i0, i1, i2, i3, i4], _ =>
    have hsteps : stepCount s.table r.walk [i0, i1, i2, i3, i4] =
        ew.d.toNat + e1.d.toNat + e2.d.toNat + e3.d.toNat + e4.d.toNat + 30 := by
      rw [stepCount_cons hew (hwalk i0), stepCount_cons he1 (h1a i1), stepCount_cons he2 (h1b i2),
        stepCount_cons he3 (h2a i3), stepCount_cons he4 (h2b i4), stepCount]
      omega
    have hheld : holdSum s.table r.walk [i0, i1, i2, i3, i4] =
        ew.d.toNat + e1.d.toNat + e2.d.toNat + e3.d.toNat + e4.d.toNat := by
      rw [holdSum_cons hew (hwalk i0), holdSum_cons he1 (h1a i1), holdSum_cons he2 (h1b i2),
        holdSum_cons he3 (h2a i3), holdSum_cons he4 (h2b i4), holdSum]
      omega
    have hend : path s.table r.walk [i0, i1, i2, i3, i4] = some b := by
      simp only [path, hwalk, h1a, h1b, h2a, h2b]
    obtain ⟨hrun, -, hph, -, hto, hscript, htime⟩ := hit
    rw [hcur] at hrun hto htime
    rw [hsteps] at hrun
    rw [hheld] at htime
    cases hend.symm.trans hto
    refine ⟨t, hrun, hph, hb, hscript, htime, ?_⟩
    rw [heldMs, heldMs, htime, Config.quantumMs]
    omega

end Sys2Proof.Machine

/-! ## Proofs: the engine (41_fsm_engine.md) -/

namespace Sys2Proof.Machine

/-! ### What the operations answer -/

section Answers

variable {s : State} {e : Entry} {n : StateId}

theorem execInit_of_checked (hv : validate s.table = none) :
    execInit s = .next { s with cur := Config.start, ph := .emitv } := by
  rw [execInit, hv]

theorem execInit_of_defect {d : Defect} (hd : validate s.table = some d) : execInit s = .next (raiseConfigDefect d s) := by
  rw [execInit, hd]

theorem execAdvance_of_entryNext (he : tableRead s.table s.cur = some e) (hn : entryNext e s.smp = some n) :
    execAdvance s = .next (goTo .emitv (dropSample { s with cur := n })) := by
  simp only [execAdvance, he, hn]

theorem execState_of_entryNext (hn : entryNext e (envSample s) = some n) :
    execState e s = .next (goTo .emitv (dropSample { dropCount (portReadIn (showAndHold e s)) with cur := n })) := by
  have henv : entryNext e (envSample (showAndHold e s)) = some n := hn
  rw [execState, henv]

theorem portReadIn_showAndHold :
    portReadIn (showAndHold e s) = showAndHold e (portReadIn s) := by
  have hscript : (showAndHold e s).script = s.script := rfl
  unfold portReadIn
  rw [hscript]
  cases s.script <;> rfl

/-- R111: what an iteration leaves in each field, over what the read leaves of the environment. -/
theorem execState_of_read (hn : entryNext e (envSample s) = some n) :
    execState e s = .next { portReadIn s with
      vout := e.v, pout := e.p.mask, cnt := Config.freeCnt (portReadIn s).free, t := s.t + e.d.toNat
      smp := Config.freeSmp ((portReadIn s).free + 1), cur := n, ph := .emitv, free := (portReadIn s).free + 2 } := by
  rw [execState_of_entryNext hn, portReadIn_showAndHold]
  simp [goTo, dropSample, dropCount, showAndHold, waitN, portWritePout, portWriteVout]

theorem execState_of_missing (hne : e.t.length ≠ 8) : execState e s = .fault (.missingTransition s.cur) := by
  have hnone : entryNext e (envSample (showAndHold e s)) = none :=
    Option.not_isSome_iff_eq_none.mp (mt (entryNext_isSome_iff e _).mp hne)
  rw [execState, hnone]

/-- An entry of eight transitions selects one of them on every sample. -/
theorem exists_entryNext (height : e.t.length = 8) (i : Sample) : ∃ n, entryNext e i = some n :=
  Option.isSome_iff_exists.mp ((entryNext_isSome_iff e i).mpr height)

/-- R152: on a checked table every operation but REFUSED completes. -/
theorem exists_exec_next {i : Instr} (hv : validate s.table = none) (hcur : CurNamed s) (hi : i ≠ .refused)
    (hentry : ∀ e, i = .state e → e.t.length = 8) : ∃ t, exec i s = .next t := by
  obtain ⟨e, he⟩ := tableRead_some_of_le s.table s.cur hcur
  cases i with
  | init => exact ⟨_, execInit_of_checked hv⟩
  | emitv => exact ⟨_, execEmitv_of_entry he⟩
  | emitp => exact ⟨_, execEmitp_of_entry he⟩
  | load => exact ⟨_, execLoad_of_entry he⟩
  | advance =>
    obtain ⟨n, hn⟩ := exists_entryNext (entry_of_validate hv he).1 s.smp
    exact ⟨_, execAdvance_of_entryNext he hn⟩
  | refused => exact absurd rfl hi
  | state e =>
    obtain ⟨n, hn⟩ := exists_entryNext (hentry e rfl) (envSample s)
    exact ⟨_, execState_of_entryNext hn⟩
  | wait | sample | wrv m | wrp m | rdin => exact ⟨_, rfl⟩

end Answers

/-- No operation raises a RESET or chooses another source for the next step. -/
theorem exec_control {i : Instr} {s t : State} (h : exec i s = .next t) :
    t.resetPending = s.resetPending ∧ t.source = s.source := by
  cases i with
  | init => obtain ⟨-, rfl⟩ | ⟨d, -, rfl⟩ := execInit_cases h <;> exact ⟨rfl, rfl⟩
  | emitv => obtain ⟨e, -, rfl⟩ := execEmitv_cases h; exact ⟨rfl, rfl⟩
  | emitp => obtain ⟨e, -, rfl⟩ := execEmitp_cases h; exact ⟨rfl, rfl⟩
  | load => obtain ⟨e, -, rfl⟩ := execLoad_cases h; exact ⟨rfl, rfl⟩
  | wait => obtain ⟨-, rfl⟩ | ⟨-, rfl⟩ := execWait_cases h <;> exact ⟨rfl, rfl⟩
  | sample => simp [execSample_cases h]
  | advance => obtain ⟨e, n, -, -, rfl⟩ := execAdvance_cases h; exact ⟨rfl, rfl⟩
  | refused => exact absurd h (exec_refused_ne_next s t)
  | wrv m => simp [← Host.Outcome.next.inj h]
  | wrp m => simp [← Host.Outcome.next.inj h]
  | rdin => simp [← Host.Outcome.next.inj h]
  | state e => obtain ⟨n, -, rfl⟩ := execState_cases h; simp [showAndHold]

/-! ### What a step performs -/

@[simp] theorem retireSource_cur (s : State) : (retireSource s).cur = s.cur := by
  unfold retireSource; split <;> rfl

theorem step_of_resetPending {s : State} (hr : s.resetPending = true) : step s = .next (resetEvent s) := by
  rw [step, if_pos hr]

theorem step_iteration_of_entry {s : State} {e : Entry} (hr : s.resetPending = false) (hsrc : s.source = .iteration)
    (hp : s.ph = .emitv) (he : tableRead s.table s.cur = some e) : step s = execState e s := by
  have hf : fetch s = .ok (.state e) := by simp [fetch, hsrc, hp, he]
  rw [step_of_fetch_ok hr hf, retireSource_of_iteration hsrc, exec]

theorem step_iteration_of_ne_emitv {s : State} (hr : s.resetPending = false) (hsrc : s.source = .iteration)
    (hp : s.ph ≠ .emitv) : step s = exec s.ph.instr s := by
  rw [step_of_fetch_ok hr (fetch_iteration_of_ne_emitv hsrc hp), retireSource_of_iteration hsrc]

/-- Every way a step can answer a next state, by what it performs: a RESET, the phase in `PH`, an iteration at EMITV, or a
port operation by itself. -/
theorem step_performs_cases {s t : State} (h : step s = .next t) :
    (s.resetPending = true ∧ t = resetEvent s) ∨
    exec s.ph.instr s = .next t ∨
    (s.ph = .emitv ∧ ∃ e, tableRead s.table s.cur = some e ∧ execState e s = .next t) ∨
    ∃ sel data i, s.source = .port sel data ∧ decode (.port sel data) = .ok i ∧ exec i (retireSource s) = .next t := by
  obtain ⟨hr, rfl⟩ | ⟨-, i, hf, hx⟩ := step_next_cases h
  · exact .inl ⟨hr, rfl⟩
  obtain ⟨hsrc, rfl⟩ | ⟨hsrc, hp, e, he, rfl⟩ | ⟨hsrc, -, rfl⟩ | ⟨sel, data, hsrc, hd⟩ := fetch_cases hf
  · exact .inr (.inl (by rwa [retireSource_of_phase hsrc] at hx))
  · exact .inr (.inr (.inl ⟨hp, e, he, by rwa [retireSource_of_iteration hsrc] at hx⟩))
  · exact .inr (.inl (by rwa [retireSource_of_iteration hsrc] at hx))
  · exact .inr (.inr (.inr ⟨sel, data, i, hsrc, hd, hx⟩))

/-- The same of a machine that takes no port operation by itself: with no RESET waiting, a phase or an iteration. -/
theorem step_performs_cases_of_noPort {s t : State} (hsrc : s.source = .phase ∨ s.source = .iteration)
    (hr : s.resetPending = false) (h : step s = .next t) :
    exec s.ph.instr s = .next t ∨
    (s.ph = .emitv ∧ ∃ e, tableRead s.table s.cur = some e ∧ execState e s = .next t) := by
  obtain ⟨hr', -⟩ | hx | hx | ⟨sel, data, i, hport, -⟩ := step_performs_cases h
  · simp [hr] at hr'
  · exact .inl hx
  · exact .inr hx
  · simp [hport] at hsrc

/-- Settles O8. -/
theorem stepPerformsThePhase : Obligations.StepPerformsThePhase := fun s hE => ⟨s.ph.decode_code, step_of_engine hE⟩

/-- Settles O9. -/
theorem stepPerformsTheEntry : Obligations.StepPerformsTheEntry := fun _ hr hsrc =>
  ⟨fun _ hp he => step_iteration_of_entry hr hsrc hp he, step_iteration_of_ne_emitv hr hsrc⟩

/-! ### Lamps and counter belong to the current state -/

/-- R131, R132: LOAD brings the hold into the counter, WAIT counts it down, and at 0 the wait is over. -/
theorem exec_phase_keeps_countOfCur {s t : State} (hi : CountOfCur s) (h : exec s.ph.instr s = .next t) :
    CountOfCur t := by
  unfold CountOfCur at hi
  cases hp : s.ph <;> rw [hp] at h hi
  case init => obtain ⟨-, rfl⟩ | ⟨d, -, rfl⟩ := execInit_cases h <;> trivial
  case emitv => obtain ⟨e, -, rfl⟩ := execEmitv_cases h; trivial
  case emitp => obtain ⟨e, -, rfl⟩ := execEmitp_cases h; trivial
  case load =>
    obtain ⟨e, he, rfl⟩ := execLoad_cases h
    exact ⟨e, he, by simp⟩
  case wait =>
    obtain ⟨hzero, rfl⟩ | ⟨hne, rfl⟩ := execWait_cases h
    · exact hzero
    · obtain ⟨e, he, hle⟩ := hi
      have hdown := cntDown_toNat hne
      simp only [CountOfCur, tick_ph, hp]
      exact ⟨e, he, by rw [tick_cnt]; omega⟩
  case sample => simp [execSample_cases h, CountOfCur]
  case advance => obtain ⟨e, n, -, -, rfl⟩ := execAdvance_cases h; trivial
  case refused => exact absurd h (exec_refused_ne_next s t)

/-- After an iteration the machine stands at EMITV again. -/
theorem execState_ph {e : Entry} {s t : State} (h : execState e s = .next t) : t.ph = .emitv := by
  obtain ⟨n, -, rfl⟩ := execState_cases h
  rfl

/-- A machine on a checked table is not refused, as a refused one has a defect to show (R112). -/
theorem ne_refused_of_machineInv {s : State} (hi : MachineInv s) (hv : validate s.table = none) : s.ph ≠ .refused := by
  obtain ⟨-, -, hrefused, -⟩ := hi
  intro hp
  obtain ⟨d, hd, -⟩ := hrefused hp
  simp [hv] at hd

theorem runInv_resetWith {tbl : Table} (script : List Sample) (n : Nat) (hv : validate tbl = none) :
    RunInv (State.resetWith tbl script n) :=
  ⟨machineInv_resetWith tbl script n, hv, nofun, .inl rfl, trivial, trivial⟩

/-- R119, R131, R132: every step keeps lamps and counter with `CUR`; a RESET starts them afresh, and where an iteration ends
nothing is claimed of them. -/
theorem step_keeps_runInv {s t : State} (hi : RunInv s) (hs : step s = .next t) : RunInv t := by
  obtain ⟨hm, hv, -, hsrc, hlamps, hcount⟩ := hi
  cases hr : s.resetPending with
  | true =>
    obtain rfl := Host.Outcome.next.inj ((step_of_resetPending hr).symm.trans hs)
    exact runInv_resetWith _ _ hv
  | false =>
    have hm' := stepKeepsMachineInv s t hm hs
    have hv' : validate t.table = none := by rwa [step_table hs]
    have hne := ne_refused_of_machineInv hm' hv'
    obtain hx | ⟨-, e, -, hx⟩ := step_performs_cases_of_noPort hsrc hr hs
    · exact ⟨hm', hv', hne, (exec_control hx).2 ▸ hsrc, exec_phase_keeps_lampsOfCur hlamps hx,
        exec_phase_keeps_countOfCur hcount hx⟩
    · have hsrc' : t.source = s.source := (exec_control (i := .state e) hx).2
      have hp := execState_ph hx
      exact ⟨hm', hv', hne, hsrc' ▸ hsrc, by simp [LampsOfCur, hp], by simp [CountOfCur, hp]⟩

/-! ### The lamps of the state shown or of the one just left -/

theorem shown_iff_of_hold {s : State} (hp : HoldPhase s.ph) :
    Shown s ↔ EntryHas s.table s.cur fun e => s.vout = e.v ∧ s.pout = e.p.mask := by
  obtain hp | hp | hp | hp := hp <;> simp [Shown, hp]

/-- R119: ADVANCE leaves the lamps to the state it came from, EMITV and EMITP take them over one register at a time, and the
hold keeps them. -/
theorem exec_phase_keeps_shown {s t : State} (hi : Shown s) (h : exec s.ph.instr s = .next t) : Shown t := by
  unfold Shown at hi
  cases hp : s.ph <;> rw [hp] at h hi
  case init => exact hi.elim
  case emitv =>
    obtain ⟨e, he, rfl⟩ := execEmitv_cases h
    obtain ⟨prev, i, hn, f, hf, -, hpout⟩ := hi
    exact ⟨⟨e, he, rfl⟩, prev, i, hn, f, hf, hpout⟩
  case emitp =>
    obtain ⟨⟨e, he, hvout⟩, -⟩ := hi
    obtain ⟨f, hf, rfl⟩ := execEmitp_cases h
    cases he.symm.trans hf
    exact ⟨e, he, hvout, poutOf_mask e.p⟩
  case load =>
    obtain ⟨e, -, rfl⟩ := execLoad_cases h
    exact hi
  case wait =>
    obtain ⟨-, rfl⟩ | ⟨-, rfl⟩ := execWait_cases h
    · exact hi
    · exact (shown_iff_of_hold (.inr (.inl hp))).mpr hi
  case sample =>
    rw [execSample_cases h]
    simpa [Shown] using hi
  case advance =>
    obtain ⟨e, n, he, hn, rfl⟩ := execAdvance_cases h
    exact ⟨s.cur, s.smp, (tableNext_of_tableRead he _).trans hn, hi⟩
  case refused => exact hi.elim

/-- R111, R119: an iteration ends with the lamps of the entry it showed, whose state led to the new `CUR`. -/
theorem shown_of_execState {e : Entry} {s t : State} (he : tableRead s.table s.cur = some e)
    (h : execState e s = .next t) : Shown t := by
  obtain ⟨n, hn, rfl⟩ := execState_cases h
  have hnext : tableNext s.table s.cur (envSample s) = some n := (tableNext_of_tableRead he _).trans hn
  refine ⟨s.cur, envSample s, ?_, e, ?_, ?_, ?_⟩ <;> simp [showAndHold, hnext, he]

/-- R112: on a checked table a run from reset goes on at EMITV of START. -/
theorem runs_succ_resetWith {tbl : Table} (script : List Sample) (n k : Nat) (hv : validate tbl = none) :
    runs (k + 1) (State.resetWith tbl script n) = runs k (goTo .emitv (State.resetWith tbl script n)) :=
  runs_succ_of_phase (p := .init) k (engine_resetWith tbl script n) rfl (execInit_of_checked hv)

/-- R114, R115: EMITV and EMITP show both masks of the entry. -/
theorem runs_show {s : State} {e : Entry} (hE : Engine s) (hp : s.ph = .emitv)
    (he : tableRead s.table s.cur = some e) :
    runs 2 s = .next (goTo .load (portWritePout e.p.mask (portWriteVout e.v s))) :=
  calc runs 2 s
    _ = runs 1 (goTo .emitp (portWriteVout e.v s)) := runs_succ_of_phase 1 hE hp (execEmitv_of_entry he)
    _ = .next (goTo .load (portWritePout e.p.mask (portWriteVout e.v s))) :=
      runs_succ_of_phase 0 hE rfl (execEmitp_of_entry he)

/-- INIT, EMITV and EMITP are the first three steps on a checked table, and the lamps are then START's (R112 to R115). -/
theorem shown_after_three {tbl : Table} {script : List Sample} {n : Nat} {s : State} (hv : validate tbl = none)
    (h : runs 3 (State.resetWith tbl script n) = .next s) : Engine s ∧ s.cur = Config.start ∧ Shown s := by
  obtain ⟨e, he⟩ := tableRead_some_of_le tbl Config.start (Nat.zero_le 13)
  have hE := engine_resetWith tbl script n
  have hrun := (runs_succ_resetWith script n 2 hv).trans
    (runs_show (s := goTo .emitv (State.resetWith tbl script n)) hE rfl he)
  obtain rfl := Host.Outcome.next.inj (hrun.symm.trans h)
  exact ⟨hE, rfl, e, he, rfl, poutOf_mask e.p⟩

/-- Settles O46. -/
theorem stepKeepsRunInv : Obligations.StepKeepsRunInv := by
  refine ⟨fun tbl script n hv => runInv_resetWith script n hv, fun s t => step_keeps_runInv, ?first, ?shown⟩
  case first =>
    intro tbl script n s hv h
    obtain ⟨⟨hr, -⟩, -, hshown⟩ := shown_after_three hv h
    exact ⟨hr, hshown⟩
  case shown =>
    rintro s t ⟨-, -, -, hsrc, -, -⟩ hr hshown hs
    obtain hx | ⟨-, e, he, hx⟩ := step_performs_cases_of_noPort hsrc hr hs
    · exact ⟨(exec_control hx).1.trans hr, exec_phase_keeps_shown hshown hx⟩
    · exact ⟨(exec_control (i := .state e) hx).1.trans hr, shown_of_execState he hx⟩

/-! ### `CUR` stays reachable -/

/-- R111: an iteration moves `CUR` along a transition of its entry. -/
theorem execState_keeps_reachable {e : Entry} {s t : State} (hi : Reachable s.table s.cur)
    (he : tableRead s.table s.cur = some e) (h : execState e s = .next t) : Reachable t.table t.cur := by
  obtain ⟨n, hn, rfl⟩ := execState_cases h
  have hreach : Reachable s.table n := reachable_of_tableNext hi ((tableNext_of_tableRead he _).trans hn)
  simpa [showAndHold] using hreach

/-- R140 to R142: a port operation by itself leaves `CUR` alone. -/
theorem exec_port_cur {sel : BitVec 3} {data : BitVec 6} {i : Instr} {s t : State}
    (hd : decode (.port sel data) = .ok i) (h : exec i s = .next t) : t.cur = s.cur := by
  obtain ⟨m, rfl⟩ | ⟨m, rfl⟩ | rfl := exec_port_cases hd h
  · rfl
  · rfl
  · exact portReadIn_cur s

/-- Settles O57. -/
theorem stepKeepsCurReachable : Obligations.StepKeepsCurReachable := by
  refine ⟨fun _ _ _ => reachable_start, fun s t hi hs => ?_⟩
  obtain ⟨-, rfl⟩ | hx | ⟨-, e, he, hx⟩ | ⟨sel, data, i, -, hd, hx⟩ := step_performs_cases hs
  · exact reachable_start
  · exact exec_phase_keeps_reachable hi hx
  · exact execState_keeps_reachable hi he hx
  · rw [step_table hs, exec_port_cur hd hx, retireSource_cur]
    exact hi

/-- R117: past INIT a phase leaves `CUR` or takes it along a transition. -/
theorem engine_step_cur {s t : State} (hE : Engine s) (hp : s.ph ≠ .init) (hs : step s = .next t) :
    t.cur = s.cur ∨ ∃ i, tableNext s.table s.cur i = some t.cur := by
  by_cases hc : t.cur = s.cur
  · exact .inl hc
  · obtain ⟨hcur, -⟩ := eachRegisterHasItsWriter s t hE hs
    obtain hinit | hadv := hcur hc
    · exact absurd hinit hp
    · rw [step_of_engine hE, hadv] at hs
      obtain ⟨e, n, he, hn, rfl⟩ := execAdvance_cases hs
      exact .inr ⟨s.smp, (tableNext_of_tableRead he _).trans hn⟩

theorem ne_init_of_shown {s : State} (h : Shown s) : s.ph ≠ .init := by
  intro hp
  simp [Shown, hp] at h

/-- Settles O50: no transition of `TABLE_REF` leads from elsewhere into its dead state. -/
theorem stepKeepsRefShown : Obligations.StepKeepsRefShown := by
  constructor
  · rintro s t ⟨hE, htable, hcur, hshown⟩ hs
    have hx : exec s.ph.instr s = .next t := (step_of_engine hE).symm.trans hs
    refine ⟨step_keeps_engine hE hs, (step_table hs).trans htable, ?_, exec_phase_keeps_shown hshown hx⟩
    obtain hsame | ⟨i, hn⟩ := engine_step_cur hE (ne_init_of_shown hshown) hs
    · rwa [hsame]
    · obtain ⟨-, -, hinto, -⟩ := tableRef_degenerate
      rw [htable] at hn
      exact fun hdead => hcur (hinto s.cur i (hn.trans (congrArg some hdead)))
  · intro script n s h
    obtain ⟨hE, hcur, hshown⟩ := shown_after_three Tests.test_validate_ref h
    exact ⟨hE, runs_table h, by rw [hcur]; decide, hshown⟩

/-! ### Iterations and their phases -/

/-- Settles O26. -/
theorem iterationIsItsPhases : Obligations.IterationIsItsPhases := fun _ _ hE hp he _ => runs_iteration hE hp he

/-- On a checked table an engine at EMITV visits the path of the samples scripted next. -/
theorem exists_iterated_of_script {ins rest : List Sample} {s : State} (hv : validate s.table = none) (hE : Engine s)
    (hp : s.ph = .emitv) (hcur : s.cur.toNat ≤ 13) (hscript : s.script = ins ++ rest) : ∃ t, Iterated ins s t := by
  induction ins generalizing s with
  | nil => exact ⟨s, .nil hE hp⟩
  | cons i ins ih =>
    obtain ⟨e, he⟩ := tableRead_some_of_le s.table s.cur hcur
    obtain ⟨n, hn, hle⟩ := exists_tableNext_of_validate hv hcur i
    obtain ⟨-, henv⟩ := portReadIn_scripted s i (ins ++ rest) hscript
    obtain ⟨u, hone, rfl⟩ := iterated_one hE hp he (henv ▸ (tableNext_of_tableRead he i).symm.trans hn)
    rw [henv] at hone
    obtain ⟨t, hrest⟩ := ih (hone.table ▸ hv) hone.engine hone.ph hle (by rw [hone.script, hscript]; rfl)
    exact ⟨t, hone.cons he hrest⟩

/-- Settles O52: after INIT the machine iterates from START on the samples scripted. -/
theorem runVisitsThePath : Obligations.RunVisitsThePath := by
  intro tbl ins rest n hv
  have hE := engine_resetWith tbl (ins ++ rest) n
  obtain ⟨t, hit⟩ := exists_iterated_of_script (s := goTo .emitv (State.resetWith tbl (ins ++ rest) n)) hv hE rfl
    (Nat.zero_le 13) rfl
  obtain ⟨hrun, -, hp, -, hpath, hscript, htime⟩ := hit
  refine ⟨t, t.cur, ?_, hpath, hp, rfl, htime.trans (Nat.zero_add _), hscript.trans (List.drop_left ..)⟩
  rw [Nat.add_comm, runs_succ_resetWith _ n _ hv]
  exact hrun

/-! ### Order of the phases, and the hold -/

/-- Settles O41. -/
theorem phasesFollowTheirOrder : Obligations.PhasesFollowTheirOrder := by
  intro s t hE hs
  refine ⟨step_keeps_engine hE hs, ?_⟩
  obtain ⟨hp, h⟩ | ⟨hp, h⟩ | ⟨hp, h⟩ | ⟨hp, h⟩ | ⟨hp, h⟩ | ⟨hp, h⟩ | ⟨hp, h⟩ := engine_step_cases hE hs <;> rw [hp]
  · obtain ⟨-, rfl⟩ | ⟨d, -, rfl⟩ := execInit_cases h
    · exact .inl rfl
    · exact .inr rfl
  · obtain ⟨e, -, rfl⟩ := execEmitv_cases h
    rfl
  · obtain ⟨e, -, rfl⟩ := execEmitp_cases h
    rfl
  · obtain ⟨e, -, rfl⟩ := execLoad_cases h
    rfl
  · obtain ⟨-, rfl⟩ | ⟨-, rfl⟩ := execWait_cases h
    · exact .inr rfl
    · exact .inl hp
  · rw [execSample_cases h]
    rfl
  · obtain ⟨e, n, -, -, rfl⟩ := execAdvance_cases h
    rfl

theorem ne_init_of_phaseFollows {p q : Phase} (h : PhaseFollows p q) : q ≠ .init := by
  rintro rfl
  cases p <;> simp [PhaseFollows] at h

/-- R132: WAIT is left at 0 only, and without a quantum. -/
theorem wait_left_at_zero {s t : State} (hp : s.ph = .wait) (h : execWait s = .next t) (hleft : t.ph ≠ .wait) :
    s.cnt = 0 ∧ t.t = s.t := by
  obtain ⟨hzero, rfl⟩ | ⟨-, rfl⟩ := execWait_cases h
  · exact ⟨hzero, rfl⟩
  · exact absurd hp hleft

/-- Settles O43: the registers have other writers than the phases of the hold, `CUR` but for ADVANCE. -/
theorem holdIsStable : Obligations.HoldIsStable := by
  intro s t hE hold hs
  obtain ⟨hcur, hvout, hpout, -⟩ := eachRegisterHasItsWriter s t hE hs
  obtain ⟨hinit, hemitv, hemitp⟩ : s.ph ≠ .init ∧ s.ph ≠ .emitv ∧ s.ph ≠ .emitp := by
    obtain hp | hp | hp | hp := hold <;> simp [hp]
  refine ⟨not_imp_comm.mp hvout hemitv, not_imp_comm.mp hpout hemitp,
    fun hadv => not_imp_comm.mp hcur (not_or.mpr ⟨hinit, hadv⟩), fun hp => ?_⟩
  rw [step_of_engine hE, hp] at hs
  exact wait_left_at_zero hp hs

/-- The two records of the model's own: the value read is taken down at SAMPLE, a defect at INIT. -/
theorem engine_step_records {s t : State} (hE : Engine s) (hs : step s = .next t) :
    (t.lastRead ≠ s.lastRead → s.ph = .sample) ∧ (t.defect ≠ s.defect → s.ph = .init) := by
  obtain ⟨hp, h⟩ | ⟨hp, h⟩ | ⟨hp, h⟩ | ⟨hp, h⟩ | ⟨hp, h⟩ | ⟨hp, h⟩ | ⟨hp, h⟩ := engine_step_cases hE hs
  · obtain ⟨-, rfl⟩ | ⟨d, -, rfl⟩ := execInit_cases h <;> simp [hp]
  · obtain ⟨e, -, rfl⟩ := execEmitv_cases h
    simp
  · obtain ⟨e, -, rfl⟩ := execEmitp_cases h
    simp
  · obtain ⟨e, -, rfl⟩ := execLoad_cases h
    simp
  · obtain ⟨-, rfl⟩ | ⟨-, rfl⟩ := execWait_cases h <;> simp
  · simp [hp, execSample_cases h]
  · obtain ⟨e, n, -, -, rfl⟩ := execAdvance_cases h
    simp

/-! ### Progress -/

/-- The operation of a phase is no table entry. -/
theorem phase_instr_ne_state (p : Phase) (e : Entry) : p.instr ≠ .state e := by cases p <;> nofun

theorem eq_refused_of_instr {p : Phase} (h : p.instr = .refused) : p = .refused := by
  cases p with
  | refused => rfl
  | _ => cases h

/-- R121, R135: a machine that meets `RunInv` has a next state. -/
theorem exists_step_of_runInv {s : State} (hi : RunInv s) : ∃ t, step s = .next t := by
  obtain ⟨⟨-, hcur, -⟩, hv, hne, hsrc, -⟩ := hi
  have hphase : ∃ t, exec s.ph.instr s = .next t :=
    exists_exec_next hv hcur (mt eq_refused_of_instr hne) fun e he => absurd he (phase_instr_ne_state s.ph e)
  cases hr : s.resetPending with
  | true => exact ⟨_, step_of_resetPending hr⟩
  | false =>
    obtain hsrc | hsrc := hsrc
    · rwa [step_of_engine ⟨hr, hsrc⟩]
    · by_cases hp : s.ph = .emitv
      · obtain ⟨e, he⟩ := tableRead_some_of_le s.table s.cur hcur
        obtain ⟨n, hn⟩ := exists_entryNext (entry_of_validate hv he).1 (envSample s)
        exact ⟨_, (step_iteration_of_entry hr hsrc hp he).trans (execState_of_entryNext hn)⟩
      · rwa [step_iteration_of_ne_emitv hr hsrc hp]

/-- A state that meets `RunInv` runs on for any number of steps. -/
theorem exists_runs_of_runInv (k : Nat) {s : State} (hi : RunInv s) : ∃ t, runs k s = .next t := by
  induction k generalizing s with
  | zero => exact ⟨s, rfl⟩
  | succ k ih =>
    obtain ⟨u, hu⟩ := exists_step_of_runInv hi
    rw [runs_succ_of_next k hu]
    exact ih (step_keeps_runInv hi hu)

/-- Settles O47. -/
theorem startedMachineNeverStops : Obligations.StartedMachineNeverStops :=
  ⟨fun _ => exists_step_of_runInv, fun _ script n k hv => exists_runs_of_runInv k (runInv_resetWith script n hv)⟩

/-! ### Determinism -/

/-- Settles O54, a phase at a time: what the phase reads is equal in both states, so the other machine performs it with the
same writes. -/
theorem stepIsDeterminedByTheSamples : Obligations.StepIsDeterminedByTheSamples := by
  rintro a b t hA hB ⟨hph, hcur, hvout, hpout, htime, htable, hcnt, hsmp⟩ henv hs
  rw [step_of_engine hB, ← hph]
  obtain ⟨hp, h⟩ | ⟨hp, h⟩ | ⟨hp, h⟩ | ⟨hp, h⟩ | ⟨hp, h⟩ | ⟨hp, h⟩ | ⟨hp, h⟩ := engine_step_cases hA hs <;> rw [hp]
  · obtain ⟨hv, rfl⟩ | ⟨d, hd, rfl⟩ := execInit_cases h
    · exact ⟨_, execInit_of_checked (htable ▸ hv), rfl, rfl, hvout, hpout, htime, htable, nofun, nofun⟩
    · exact ⟨_, execInit_of_defect (htable ▸ hd), rfl, hcur, hvout, hpout, htime, htable, nofun, nofun⟩
  · obtain ⟨e, he, rfl⟩ := execEmitv_cases h
    rw [htable, hcur] at he
    exact ⟨_, execEmitv_of_entry he, rfl, hcur, rfl, hpout, htime, htable, nofun, nofun⟩
  · obtain ⟨e, he, rfl⟩ := execEmitp_cases h
    rw [htable, hcur] at he
    exact ⟨_, execEmitp_of_entry he, rfl, hcur, hvout, rfl, htime, htable, nofun, nofun⟩
  · obtain ⟨e, he, rfl⟩ := execLoad_cases h
    rw [htable, hcur] at he
    exact ⟨_, execLoad_of_entry he, rfl, hcur, hvout, hpout, htime, htable, fun _ => rfl, nofun⟩
  · have hcnt := hcnt hp
    obtain ⟨hzero, rfl⟩ | ⟨hne, rfl⟩ := execWait_cases h
    · exact ⟨_, execWait_of_zero (hcnt ▸ hzero), rfl, hcur, hvout, hpout, htime, htable, nofun, nofun⟩
    · exact ⟨_, execWait_of_ne_zero (hcnt ▸ hne), hph, hcur, hvout, hpout, congrArg (· + 1) htime, htable,
        fun _ => congrArg cntDown hcnt, by simp [hp]⟩
  · rw [execSample_cases h]
    exact ⟨_, rfl, by simp [HwAgree, hcur, hvout, hpout, htime, htable, henv hp]⟩
  · obtain ⟨e, n, he, hn, rfl⟩ := execAdvance_cases h
    rw [htable, hcur] at he
    rw [hsmp hp] at hn
    exact ⟨_, execAdvance_of_entryNext he hn, rfl, rfl, hvout, hpout, htime, htable, nofun, nofun⟩

/-! ### The operations -/

/-- Settles O12: that no phase leads back to INIT is the order of the phases. -/
theorem initStartsOrRefuses : Obligations.InitStartsOrRefuses := by
  refine ⟨fun s hv => execInit_of_checked hv, fun s d hd => execInit_of_defect hd, rfl, fun s t hE hs => ?_⟩
  obtain ⟨-, hfollows⟩ := phasesFollowTheirOrder s t hE hs
  obtain ⟨-, hdefect⟩ := engine_step_records hE hs
  exact ⟨ne_init_of_phaseFollows hfollows, not_imp_comm.mp hdefect⟩

/-- Settles O13. -/
theorem emitvWritesTheVehicleMask : Obligations.EmitvWritesTheVehicleMask := by
  intro s hcur
  obtain ⟨e, he⟩ := tableRead_some_of_le s.table s.cur hcur
  exact ⟨e, he, execEmitv_of_entry he⟩

/-- Settles O14. -/
theorem emitpWritesThePedestrianMask : Obligations.EmitpWritesThePedestrianMask := by
  constructor
  · intro s hcur
    obtain ⟨e, he⟩ := tableRead_some_of_le s.table s.cur hcur
    exact ⟨e, _, he, execEmitv_of_entry he, rfl, rfl, rfl⟩
  · intro s hcur
    obtain ⟨e, he⟩ := tableRead_some_of_le s.table s.cur hcur
    refine ⟨e, poutOf e.p.mask, he, execEmitp_of_entry he, ?_⟩
    rw [poutOf_mask]
    exact e.p.mask_bits

/-- Settles O19. -/
theorem sampleLatchesTheInput : Obligations.SampleLatchesTheInput := by
  refine ⟨?scripted, ?drawn, ?others⟩
  case scripted =>
    intro s i rest hscript
    obtain ⟨hread, henv⟩ := portReadIn_scripted s i rest hscript
    exact ⟨_, by rw [exec, execSample, hread, henv]; rfl⟩
  case drawn =>
    intro s hscript
    obtain ⟨hread, henv⟩ := portReadIn_drawn s hscript
    exact ⟨_, by rw [exec, execSample, hread, henv]; rfl⟩
  case others =>
    intro s t hE hp hs
    obtain ⟨-, -, -, -, -, -, hscript⟩ := eachRegisterHasItsWriter s t hE hs
    obtain ⟨hread, -⟩ := engine_step_records hE hs
    exact ⟨not_imp_comm.mp hscript hp, not_imp_comm.mp hread hp⟩

/-- Settles O20. -/
theorem advanceTakesTheSelectedState : Obligations.AdvanceTakesTheSelectedState := by
  intro s e he height
  obtain ⟨n, hn⟩ := exists_entryNext height s.smp
  exact ⟨n, Config.freeSmp s.free, (entryNext_eq_getElem? e s.smp height).symm.trans hn,
    (tableNext_of_tableRead he _).trans hn, execAdvance_of_entryNext he hn, fun hv => entryNext_le_of_validate hv he hn⟩

/-- Settles O21. -/
theorem refusedHasNoStep : Obligations.RefusedHasNoStep := by
  refine ⟨fun _ => rfl, fun s k hE hp => runs_succ_of_fault k ?_, fun s _ hr => ⟨_, step_of_resetPending hr, rfl⟩⟩
  rw [step_of_engine hE, hp]
  rfl

/-- Settles O25. -/
theorem statePerformsOneIteration : Obligations.StatePerformsOneIteration := by
  refine ⟨?scripted, ?drawn, fun s e => execState_of_missing⟩
  case scripted =>
    intro s e i rest height hscript
    obtain ⟨hread, henv⟩ := portReadIn_scripted s i rest hscript
    obtain ⟨n, hn⟩ := exists_entryNext height i
    refine ⟨n, Config.freeSmp (s.free + 1), Config.freeCnt s.free,
      (entryNext_eq_getElem? e i height).symm.trans hn, ?_⟩
    rw [exec, execState_of_read (henv ▸ hn), hread]
  case drawn =>
    intro s e height hscript
    obtain ⟨hread, henv⟩ := portReadIn_drawn s hscript
    obtain ⟨n, hn⟩ := exists_entryNext height (Config.freeSample s.free)
    refine ⟨n, Config.freeSmp (s.free + 2), Config.freeCnt (s.free + 1),
      (entryNext_eq_getElem? e _ height).symm.trans hn, ?_⟩
    rw [exec, execState_of_read (henv ▸ hn), hread]

end Sys2Proof.Machine

/-! ## Proofs: timing (42_timing.md) -/

namespace Sys2Proof.Machine

/-- Settles O15. -/
theorem loadSetsTheCounter : Obligations.LoadSetsTheCounter := by
  intro s hcur
  obtain ⟨e, he⟩ := tableRead_some_of_le s.table s.cur hcur
  refine ⟨e, he, (execLoad_of_entry he).trans ?_⟩
  rw [countOf_eq]
  rfl

/-- Settles O17: a WAIT that is not over is a quantum, and that lowers the counter by one as a number. -/
theorem counterNeverWraps : Obligations.CounterNeverWraps := by
  intro s t h hne
  obtain ⟨hzero, -⟩ | ⟨-, rfl⟩ := execWait_cases h
  · exact absurd hzero hne
  · have hdown := cntDown_toNat hne
    have hlt := s.cnt.isLt
    rw [tick_cnt]
    exact ⟨hdown, by omega⟩

/-- R132: a wait that starts at `k` or more takes `k` quanta. -/
theorem runs_ticks (k : Nat) {s : State} (hE : Engine s) (hp : s.ph = .wait) (hk : k ≤ s.cnt.toNat) :
    runs k s = .next { s with cnt := BitVec.ofNat 8 (s.cnt.toNat - k), t := s.t + k } := by
  induction k generalizing s with
  | zero => simp
  | succ k ih =>
    have hne : s.cnt ≠ 0 := fun h => by simp [h] at hk
    have hdown := cntDown_toNat hne
    have hcnt : (cntDown s.cnt).toNat - k = s.cnt.toNat - (k + 1) := by omega
    have htime : s.t + 1 + k = s.t + (k + 1) := by omega
    rw [runs_succ_of_phase k hE hp (execWait_of_ne_zero hne), ih (s := tick s) hE hp (by rw [tick_cnt]; omega),
      tick_cnt, tick_t, hcnt, htime]
    rfl

/-- Settles O16. -/
theorem waitCountsDown : Obligations.WaitCountsDown :=
  ⟨fun _ => execWait_of_zero, fun _ => execWait_of_ne_zero, fun _ k => runs_ticks k,
    fun _ hE hp => runs_wait _ hE hp rfl⟩

/-- R130: LOAD and the WAIT steps after it are `wait(n)`, and the machine then stands at SAMPLE. -/
theorem runs_load_wait {s : State} {e : Entry} (hE : Engine s) (hp : s.ph = .load)
    (he : tableRead s.table s.cur = some e) : runs (e.d.toNat + 2) s = .next (goTo .sample (waitN e.d s)) := by
  rw [runs_succ_of_phase _ hE hp (execLoad_of_entry he), countOf_eq]
  exact runs_wait _ hE rfl rfl

/-- Settles O18: a hold of no quanta is the case of `n` = 0. -/
theorem loadAndWaitsAreWaitN : Obligations.LoadAndWaitsAreWaitN := by
  intro s e hE hp he
  have hrun := runs_load_wait hE hp he
  refine ⟨hrun, rfl, fun hzero => ?_⟩
  rw [hzero] at hrun
  exact hrun

end Sys2Proof.Machine
/-! ## Proofs: the ports (43_ports.md) -/

namespace Sys2Proof.Machine

/-! ### A port word placed for the next step -/

section PortWord

variable {s : State} {sel : BitVec 3} {data : BitVec 6} (hsrc : s.source = .port sel data)
include hsrc

theorem fetch_port_of_decode_ok {i : Instr} (hd : decode (.port sel data) = .ok i) : fetch s = .ok i := by
  simp only [fetch, hsrc, hd]

theorem fetch_port_of_decode_error {e : DecodeError} (hd : decode (.port sel data) = .error e) :
    fetch s = .error (.badPortWord e) := by
  simp only [fetch, hsrc, hd]

end PortWord

/-- Settles O10. -/
theorem stepPerformsThePortWord : Obligations.StepPerformsThePortWord := by
  intro s sel data hr hsrc
  constructor
  · intro i hd
    rw [step_of_fetch_ok hr (fetch_port_of_decode_ok hsrc hd), retireSource_of_port hsrc]
  · intro e hd
    exact step_of_fetch_error hr (fetch_port_of_decode_error hsrc hd)

/-! ### The three operations -/

/-- Settles O22: the writer of `VOUT` is EMITV, which performs WRV on the mask of the entry it reads. -/
theorem wrvWritesVout : Obligations.WrvWritesVout := by
  refine ⟨fun _ => rfl, fun _ _ => rfl, fun _ => rfl, ?others,
    fun s e he => ⟨portWriteVout e.v s, rfl, execEmitv_of_entry he⟩⟩
  case others =>
    intro s t hE hs hp
    obtain ⟨-, hvout, -⟩ := eachRegisterHasItsWriter s t hE hs
    exact not_imp_comm.mp hvout hp

/-- Settles O23: the writer of `POUT` is EMITP, which performs WRP on the mask of the entry it reads. -/
theorem wrpWritesPout : Obligations.WrpWritesPout := by
  refine ⟨fun _ => rfl, fun m _ => ⟨poutOf m, rfl, poutOf_bits m⟩, ?others,
    fun s e he => ⟨portWritePout e.p.mask s, rfl, execEmitp_of_entry he⟩⟩
  case others =>
    intro s t hE hs hp
    obtain ⟨-, -, hpout, -⟩ := eachRegisterHasItsWriter s t hE hs
    exact not_imp_comm.mp hpout hp

/-- Settles O24: RDIN and SAMPLE go through the same read of the port. -/
theorem rdinReturnsTheInput : Obligations.RdinReturnsTheInput := by
  refine ⟨rfl, ?scripted, ?drawn, ?sample⟩
  case scripted =>
    intro s i rest hscript
    obtain ⟨hread, -⟩ := portReadIn_scripted s i rest hscript
    exact congrArg Host.Outcome.next hread
  case drawn =>
    intro s hscript
    obtain ⟨hread, -⟩ := portReadIn_drawn s hscript
    exact congrArg Host.Outcome.next hread
  case sample =>
    intro s
    exact ⟨portReadIn s, envSample s, Config.freeCnt (portReadIn s).free, rfl, portReadIn_lastRead s, rfl⟩

end Sys2Proof.Machine

/-! ## Proofs: exceptions (60_exceptions.md) -/

namespace Sys2Proof.Machine

/-! ### A valid table -/

/-- R152: an operation answers a next state or a fault. Only those that read the table have a choice between the two. -/
theorem exec_ne_refused (i : Instr) (s : State) (r : Refusal) : exec i s ≠ .refused r := by
  cases i with
  | emitv => rw [exec, execEmitv]; split <;> nofun
  | emitp => rw [exec, execEmitp]; split <;> nofun
  | load => rw [exec, execLoad]; split <;> nofun
  | advance =>
    rw [exec, execAdvance]
    split
    · split <;> nofun
    · nofun
  | state e => rw [exec, execState]; split <;> nofun
  | init | wait | sample | refused | wrv m | wrp m | rdin => nofun

/-- R123: a step is a RESET, an operation, or the fault of the choice of an operation. -/
theorem step_ne_refused (s : State) (r : Refusal) : step s ≠ .refused r := by
  cases hr : s.resetPending with
  | true => rw [step_of_resetPending hr]; nofun
  | false =>
    cases hf : fetch s with
    | ok i => rw [step_of_fetch_ok hr hf]; exact exec_ne_refused i _ r
    | error f => rw [step_of_fetch_error hr hf]; nofun

/-- Settles O28. -/
theorem onlyRefusedStopsOnAValidTable : Obligations.OnlyRefusedStopsOnAValidTable :=
  ⟨fun _ _ => exists_exec_next, exec_ne_refused, step_ne_refused⟩

/-! ### A defective table -/

/-- R157: the first step on a defective table takes `ConfigDefect`. -/
theorem step_resetWith_of_defect {tbl : Table} {d : Defect} (script : List Sample) (n : Nat)
    (hd : validate tbl = some d) :
    step (State.resetWith tbl script n) = .next (raiseConfigDefect d (State.resetWith tbl script n)) :=
  (step_of_engine (engine_resetWith tbl script n)).trans (execInit_of_defect hd)

/-- Settles O39: the run from reset takes `ConfigDefect` and then stands in REFUSED, which has no step; a RESET gives a
machine right after reset on the same table, and that takes `ConfigDefect` again. -/
theorem defectiveTableIsRefusedForEver : Obligations.DefectiveTableIsRefusedForEver := by
  intro tbl script n d hd
  have hinit := step_resetWith_of_defect script n hd
  refine ⟨(runs_one _).trans hinit, fun k => ?stuck, fun s hr _ htbl => ?again⟩
  case stuck =>
    obtain ⟨-, hstuck, -⟩ := refusedHasNoStep
    rw [runs_succ_of_next (k + 1) hinit]
    exact hstuck _ k (engine_resetWith tbl script n) rfl
  case again =>
    subst htbl
    refine ⟨raiseConfigDefect d (resetEvent s), ?_, rfl, rfl, rfl⟩
    rw [runs_succ_of_next 1 (step_of_resetPending hr), runs_one]
    exact step_resetWith_of_defect s.script s.free hd

end Sys2Proof.Machine

/-! ## Proofs: reset and hazards (70_reset_and_hazards.md) -/

namespace Sys2Proof.Machine

/-! ### Reset -/

/-- Settles O38: the step is the RESET event, which keeps the table, the script and the counter of free values. -/
theorem resetForgetsEverything : Obligations.ResetForgetsEverything := by
  constructor
  · exact fun s hr => ⟨resetEvent s, step_of_resetPending hr, rfl, rfl, rfl, poutOf_reserved _, rfl, rfl⟩
  · intro a b ha hb htable hscript hfree
    rw [step_of_resetPending ha, step_of_resetPending hb, resetEvent, resetEvent, htable, hscript, hfree]

/-- Settles O40: after INIT the machine shows START's masks and waits out its duration, with the script untouched. -/
theorem firstIterationShowsStart : Obligations.FirstIterationShowsStart := by
  intro tbl script n e hv he
  have hrun : runs (e.d.toNat + 5) (State.resetWith tbl script n) =
      .next (goTo .sample (showAndHold e (goTo .emitv (State.resetWith tbl script n)))) :=
    (runs_succ_resetWith script n _ hv).trans (runs_showAndHold (engine_resetWith tbl script n) rfl he)
  exact ⟨_, hrun, rfl, rfl, rfl, poutOf_mask e.p, Nat.zero_add _, rfl, rfl⟩

/-! ### Inputs -/

/-- R174: a phase other than SAMPLE does not look at the inputs to come, and hands them on. -/
theorem exec_phase_of_script {p : Phase} {s t : State} (script : List Sample) (hp : p ≠ .sample)
    (h : exec p.instr s = .next t) : exec p.instr { s with script := script } = .next { t with script := script } := by
  cases p with
  | init =>
    obtain ⟨hv, rfl⟩ | ⟨d, hd, rfl⟩ := execInit_cases h
    · exact execInit_of_checked hv
    · exact execInit_of_defect hd
  | emitv => obtain ⟨e, he, rfl⟩ := execEmitv_cases h; exact execEmitv_of_entry he
  | emitp => obtain ⟨e, he, rfl⟩ := execEmitp_cases h; exact execEmitp_of_entry he
  | load => obtain ⟨e, he, rfl⟩ := execLoad_cases h; exact execLoad_of_entry he
  | wait =>
    obtain ⟨hzero, rfl⟩ | ⟨hne, rfl⟩ := execWait_cases h
    · exact execWait_of_zero hzero
    · exact execWait_of_ne_zero hne
  | sample => exact absurd rfl hp
  | advance => obtain ⟨e, n, he, hn, rfl⟩ := execAdvance_cases h; exact execAdvance_of_entryNext he hn
  | refused => exact absurd h (exec_refused_ne_next s t)

/-- Settles O55; SAMPLE is the one writer of the script. -/
theorem inputsAreSeenAtSampleOnly : Obligations.InputsAreSeenAtSampleOnly := by
  intro s t script hE hp hs
  have hE' : Engine { s with script := script } := hE
  obtain ⟨-, -, -, -, -, -, hscript⟩ := eachRegisterHasItsWriter s t hE hs
  refine ⟨?_, not_imp_comm.mp hscript hp⟩
  rw [step_of_engine hE] at hs
  rw [step_of_engine hE']
  exact exec_phase_of_script script hp hs

/-! ### States that are not left -/

/-- From a state with `P`, samples with `A` lead along states with `P`, if each single sample with `A` does. -/
theorem exists_path_of_next {tbl : Table} {P : StateId → Prop} {A : Sample → Prop}
    (hnext : ∀ s i, P s → A i → ∃ n, tableNext tbl s i = some n ∧ P n) {s : StateId} {ins : List Sample} (hs : P s)
    (hins : ∀ i ∈ ins, A i) : ∃ c, path tbl s ins = some c ∧ P c := by
  induction ins generalizing s with
  | nil => exact ⟨s, rfl, hs⟩
  | cons i ins ih =>
    obtain ⟨hi, hrest⟩ := List.forall_mem_cons.mp hins
    obtain ⟨n, hn, hPn⟩ := hnext s i hs hi
    rw [path_cons_of_tableNext hn]
    exact ih hPn hrest

/-- Settles O35: past INIT `CUR` moves along transitions only, and here each of them leads back. -/
theorem deadStateIsNeverLeft : Obligations.DeadStateIsNeverLeft := by
  constructor
  · intro tbl s hloop ins
    induction ins with
    | nil => rfl
    | cons i ins ih => rw [path_cons_of_tableNext (hloop i), ih]
  · intro s t hloop hE hp hs
    obtain hsame | ⟨i, hn⟩ := engine_step_cur hE hp hs
    · exact hsame
    · exact Option.some.inj (hn.symm.trans (hloop i))

/-! ### A pedestrian who never stops asking -/

/-- The buffer states and the five states of the pedestrian sequence. -/
def BufferOrPedestrian (r : Roles) (s : StateId) : Prop :=
  s ∈ r.buf ∨ s = r.walk ∨ s = r.f1a ∨ s = r.f1b ∨ s = r.f2a ∨ s = r.f2b

/-- Some samples lead from walk to `s` with no buffer state on the way, walk and `s` included. -/
def WalkedTo (tbl : Table) (r : Roles) (s : StateId) : Prop :=
  ∃ ins, path tbl r.walk ins = some s ∧ ∀ k ≤ ins.length, ∀ b ∈ r.buf, path tbl r.walk (ins.take k) ≠ some b

section Starvation

variable {tbl : Table} {r : Roles} {s n : StateId} {i : Sample}

/-- R96, R97: an asking pedestrian keeps the machine among these states. -/
theorem exists_next_bufferOrPedestrian (hpath : PedestrianPath tbl r) (hprio : PedestrianPriority tbl r)
    (hs : BufferOrPedestrian r s) (hi : senses i .pedestrian = true) :
    ∃ n, tableNext tbl s i = some n ∧ BufferOrPedestrian r n := by
  obtain ⟨hwalk, h1a, h1b, h2a, b, hb, h2b⟩ := hpath
  obtain hbuf | rfl | rfl | rfl | rfl | rfl := hs
  · exact ⟨_, hprio s hbuf i hi, by simp [BufferOrPedestrian]⟩
  · exact ⟨_, hwalk i, by simp [BufferOrPedestrian]⟩
  · exact ⟨_, h1a i, by simp [BufferOrPedestrian]⟩
  · exact ⟨_, h1b i, by simp [BufferOrPedestrian]⟩
  · exact ⟨_, h2a i, by simp [BufferOrPedestrian]⟩
  · exact ⟨_, h2b i, .inl hb⟩

theorem walkedTo_walk (h : r.walk ∉ r.buf) : WalkedTo tbl r r.walk := by
  refine ⟨[], rfl, fun k _ b hb hp => h ?_⟩
  rw [List.take_nil] at hp
  cases hp
  exact hb

/-- The way goes on as long as it meets no buffer state. -/
theorem WalkedTo.next (hs : WalkedTo tbl r s) (hn : tableNext tbl s i = some n) (hbuf : n ∉ r.buf) :
    WalkedTo tbl r n := by
  obtain ⟨ins, hp, hfree⟩ := hs
  have hpn : path tbl r.walk (ins ++ [i]) = some n := (path_append hp [i]).trans (path_cons_of_tableNext hn [])
  refine ⟨ins ++ [i], hpn, fun k _ b hb hk => ?_⟩
  by_cases hle : k ≤ ins.length
  · rw [List.take_append_of_le_length hle] at hk
    exact hfree k hle b hb hk
  · rw [List.take_of_length_le (by rw [List.length_append, List.length_singleton]; omega), hpn] at hk
    cases hk
    exact hbuf hb

/-- R98: between walk and a green stands a buffer state. -/
theorem WalkedTo.not_green (hbuffered : Buffered tbl r) (hs : WalkedTo tbl r s) : ¬ GreenNs tbl s ∧ ¬ GreenEw tbl s := by
  obtain ⟨ins, hp, hfree⟩ := hs
  rw [← not_or]
  intro hgreen
  obtain ⟨k, hk, b, hb, hat⟩ := hbuffered r.walk s ins (.inr (.inr ⟨rfl, hgreen⟩)) hp
  exact hfree k hk b hb hat

/-- The glossary's buffer states show no green. -/
theorem not_green_of_mem_buf (hdark : BuffersDark tbl r) (hs : s ∈ r.buf) : ¬ GreenNs tbl s ∧ ¬ GreenEw tbl s := by
  obtain ⟨e, he, hns, hew⟩ := hdark s hs
  constructor
  · rintro ⟨f, hf, hlit⟩
    cases he.symm.trans hf
    simp [hns] at hlit
  · rintro ⟨f, hf, hlit⟩
    cases he.symm.trans hf
    simp [hew] at hlit

/-- R97: an asking pedestrian leads from a buffer state to walk, so a state visited that is no buffer state was walked to. -/
theorem next_mem_buf_or_walkedTo (hprio : PedestrianPriority tbl r) (hs : s ∈ r.buf ∨ WalkedTo tbl r s)
    (hi : senses i .pedestrian = true) (hn : tableNext tbl s i = some n) : n ∈ r.buf ∨ WalkedTo tbl r n := by
  refine or_iff_not_imp_left.mpr fun hbuf => ?_
  obtain hs | hs := hs
  · cases (hprio s hs i hi).symm.trans hn
    exact walkedTo_walk hbuf
  · exact hs.next hn hbuf

end Starvation

/-- Settles O36: with the pedestrian always asking, the states visited are of these kinds, and each is a buffer state or walked
to from the last walk; neither shows a green. -/
theorem persistentPedestrianStarvesTheVehicles : Obligations.PersistentPedestrianStarvesTheVehicles := by
  intro tbl r hpath hprio b ins hb hask
  have hnext (s : StateId) (i : Sample) (hs : BufferOrPedestrian r s ∧ (s ∈ r.buf ∨ WalkedTo tbl r s))
      (hi : senses i .pedestrian = true) :
      ∃ n, tableNext tbl s i = some n ∧ BufferOrPedestrian r n ∧ (n ∈ r.buf ∨ WalkedTo tbl r n) := by
    obtain ⟨hkind, hway⟩ := hs
    obtain ⟨n, hn, hkind'⟩ := exists_next_bufferOrPedestrian hpath hprio hkind hi
    exact ⟨n, hn, hkind', next_mem_buf_or_walkedTo hprio hway hi hn⟩
  obtain ⟨s, hs, hkind, hway⟩ := exists_path_of_next hnext ⟨.inl hb, .inl hb⟩ hask
  refine ⟨s, hs, hkind, fun hdark hbuffered => ?_⟩
  obtain hbuf | hwalked := hway
  · exact not_green_of_mem_buf hdark hbuf
  · exact hwalked.not_green hbuffered

/-! ### The lamps of `TABLE_REF` -/

/-- R176: not both greens, and walk with both reds alone. -/
def LampsSafe (v : VMask) (p : PMask) : Prop :=
  ¬ (vLit v .nsGreen = true ∧ vLit v .ewGreen = true) ∧ (pLit p .walk = true → v = 0b100100)

theorem tableRef_entry_lampsSafe {s : StateId} {e : Entry} (he : tableRead tableRef s = some e) :
    LampsSafe e.v e.p.mask := by
  have hentries : ∀ e ∈ tableEntries tableRef, LampsSafe e.v e.p.mask := by unfold LampsSafe; decide
  exact hentries e (mem_tableEntries_of_tableRead he)

theorem eq_walk_of_pLit_tableRef {s : StateId} {e : Entry} (he : tableRead tableRef s = some e)
    (hw : pLit e.p.mask .walk = true) : s = 9 := by
  have hall : ∀ s : StateId, ∀ e ∈ tableRead tableRef s, pLit e.p.mask .walk = true → s = 9 := by decide
  exact hall s e he hw

/-- Between EMITV and EMITP the vehicle lamps are already those of the next state: after Walk they are Flash1a's, both red. -/
theorem tableRef_mixed_lampsSafe {prev n : StateId} {i : Sample} {e f : Entry} (hn : tableNext tableRef prev i = some n)
    (he : tableRead tableRef n = some e) (hf : tableRead tableRef prev = some f) : LampsSafe e.v f.p.mask := by
  obtain ⟨hgreens, -⟩ := tableRef_entry_lampsSafe he
  refine ⟨hgreens, fun hw => ?_⟩
  obtain ⟨hwalk, -⟩ := Tests.tableRef_path
  obtain rfl := eq_walk_of_pLit_tableRef hf hw
  cases (hwalk i).symm.trans hn
  cases he
  rfl

/-- A machine that shows its state, the one just left or the mixed pattern of the two is safe on `TABLE_REF`. -/
theorem lampsSafe_of_shown {s : State} (htable : s.table = tableRef) (h : Shown s) : LampsSafe s.vout s.pout := by
  have hown {c : StateId} (hc : EntryHas s.table c fun e => s.vout = e.v ∧ s.pout = e.p.mask) :
      LampsSafe s.vout s.pout := by
    obtain ⟨e, he, hvout, hpout⟩ := hc
    rw [htable] at he
    rw [hvout, hpout]
    exact tableRef_entry_lampsSafe he
  unfold Shown at h
  cases hp : s.ph <;> rw [hp] at h
  case init | refused => exact h.elim
  case emitv =>
    obtain ⟨prev, i, -, hprev⟩ := h
    exact hown hprev
  case emitp =>
    obtain ⟨⟨e, he, hvout⟩, prev, i, hn, f, hf, hpout⟩ := h
    rw [htable] at he hn hf
    rw [hvout, hpout]
    exact tableRef_mixed_lampsSafe hn he hf
  case load | wait | sample | advance => exact hown h

/-- Settles O51: `RefShown` holds after three steps and every step keeps it. -/
theorem referenceLampsAreSafe : Obligations.ReferenceLampsAreSafe := by
  intro script n k s h
  obtain ⟨hkeep, hthree⟩ := stepKeepsRefShown
  obtain ⟨-, hruns⟩ := startedMachineNeverStops
  obtain ⟨u, hu⟩ := hruns tableRef script n 3 Tests.test_validate_ref
  rw [Nat.add_comm, runs_add k hu] at h
  obtain ⟨-, htable, hcur, hshown⟩ := runs_keep hkeep k u s (hthree script n u hu) h
  obtain ⟨hgreens, hwalk⟩ := lampsSafe_of_shown htable hshown
  exact ⟨hgreens, hwalk, hcur⟩

end Sys2Proof.Machine

/-! ## Proofs: operations placed by the model (log entries 5 and 8) -/

namespace Sys2Proof

theorem Phase.format_instr (p : Phase) : p.instr.format = .ph := by cases p <;> rfl

/-- A row's bits have no port word (log entry 8). -/
theorem tableWord_cases {nbits w : Nat} {c : CodeWord} (h : tableWord nbits w = some c) :
    (∃ code, c = .ph code) ∨ ∃ word, c = .entry word := by
  unfold tableWord at h
  split at h
  · exact .inl ⟨_, (Option.some.inj (Option.ite_none_right_eq_some.mp h).2).symm⟩
  · exact .inr ⟨_, (Option.some.inj (Option.ite_none_right_eq_some.mp h).2).symm⟩

theorem decodeTableWord_eq_some_iff (nbits w : Nat) (i : Instr) :
    decodeTableWord nbits w = some i ↔ ∃ c, tableWord nbits w = some c ∧ decode c = .ok i := by
  unfold decodeTableWord
  cases tableWord nbits w with
  | none => simp
  | some c => cases hd : decode c <;> simp [hd]

/-- A row's bits that decode are the code of a phase or the word of an entry. -/
theorem decodeTableWord_cases {nbits w : Nat} {i : Instr} (h : decodeTableWord nbits w = some i) :
    (∃ code, tableWord nbits w = some (.ph code) ∧ i = (Phase.ofCode code).instr) ∨
      ∃ word, tableWord nbits w = some (.entry word) ∧ decode (.entry word) = .ok i ∧ i = .state (Entry.unpack word) := by
  obtain ⟨c, hc, hd⟩ := (decodeTableWord_eq_some_iff nbits w i).mp h
  obtain ⟨code, rfl⟩ | ⟨word, rfl⟩ := tableWord_cases hc
  · exact .inl ⟨code, hc, (Except.ok.inj hd).symm⟩
  · obtain ⟨-, -, hi⟩ := (decode_entry_eq_ok_iff word i).mp hd
    exact .inr ⟨word, hc, hd, hi⟩

end Sys2Proof

namespace Sys2Proof.Machine

theorem withFetchWord_of_tableWord (s : State) {nbits w : Nat} {c : CodeWord} (h : tableWord nbits w = some c) :
    s.withFetchWord nbits w = placeWord c s := by
  simp only [State.withFetchWord, h]

theorem placeWord_entry_of_decode_ok (s : State) {word : BitVec 50} {i : Instr} (h : decode (.entry word) = .ok i) :
    placeWord (.entry word) s = placeEntry word s := by
  have hentry : decodeEntry word = .ok i := h
  simp only [placeWord, hentry]

/-- A placed entry goes to a slot of the table (log entry 5). -/
theorem placeSlot_le (s : State) : (placeSlot s).toNat ≤ 13 := by
  unfold placeSlot
  split
  · omega
  · decide

theorem step_placePhase (code : BitVec 3) (s : State) :
    step (placePhase code s) = exec (Phase.ofCode code).instr (placePhase code s) :=
  step_of_engine ⟨rfl, rfl⟩

/-- The placed machine stands at EMITV, and the entry it reads in its own slot is the one just put there. -/
theorem step_placeEntry (word : BitVec 50) (s : State) :
    step (placeEntry word s) = exec (.state (Entry.unpack word)) (placeEntry word s) := by
  rw [exec]
  exact step_iteration_of_entry rfl rfl rfl (tableRead_tablePut _ _ _ (placeSlot_le s))

/-- Settles O11: the bits are those of a phase or of an entry, and each of the two is placed and performed in its own way. -/
theorem placedWordIsPerformed : Obligations.PlacedWordIsPerformed := by
  refine ⟨fun s nbits w i h => ?performed, rfl, rfl, rfl, fun nbits w i h => ?noPort⟩
  case performed =>
    obtain ⟨code, hword, rfl⟩ | ⟨word, hword, hd, rfl⟩ := decodeTableWord_cases h
    · rw [withFetchWord_of_tableWord s hword]
      exact step_placePhase code s
    · rw [withFetchWord_of_tableWord s hword, placeWord_entry_of_decode_ok s hd]
      exact step_placeEntry word s
  case noPort =>
    obtain ⟨code, -, rfl⟩ | ⟨word, -, -, rfl⟩ := decodeTableWord_cases h
    · rw [Phase.format_instr]; nofun
    · nofun

end Sys2Proof.Machine
